-- ==== Sys2Proof/Word.lean ====
section
/-! DEFINITION. The bit-vector types of FCB and the parameters its source fixes (00_scope.md R5, R9). -/

namespace Sys2Proof

/-- A byte (00_scope.md R9). -/
abbrev Byte := BitVec 8

/-- A 16-bit value: a command word (30_encoding.md R56) or a checksum (40_checksum.md R80). -/
abbrev Half := BitVec 16

/-- A 32-bit value. A counter cell is an `i32`: its signed reading is `BitVec.toInt` (10_state.md R11). -/
abbrev Word := BitVec 32

/-- `BUFFER_SIZE`: bytes in a frame (00_scope.md R5). -/
abbrev bufferSize : Nat := 64

/-- `MAX_ENCODERS`: cells in the counter bank (00_scope.md R5). -/
abbrev maxEncoders : Nat := 8

/-- A channel: the index of a cell, 0 to 7 (30_encoding.md R58: "every value is a cell"). -/
abbrev Channel := Fin maxEncoders

/-- `LEN_OFF`: frame offset of the length byte (00_scope.md R5). -/
abbrev lenOff : Nat := 4

/-- `PAY_OFF`: frame offset of the first stuffed byte (00_scope.md R5). -/
abbrev payOff : Nat := 5

/-- `CRC_OFF`: frame offset of the checksum's high byte (00_scope.md R5). -/
abbrev crcOff : Nat := 62

/-- `RESET_ALL`: the `channel_id` that means all channels (00_scope.md R5). -/
abbrev resetAll : Byte := 255#8

/-- `DELIM`: the byte value the stuffing removes (00_scope.md R5). -/
abbrev delim : Byte := 0#8

end Sys2Proof
end

