-- ==== Sys2Proof/Syntax.lean ====
section
/-! DEFINITION. What is issued at FCB's ports: ports, requests, packets, and `Instr`, one constructor per
row of spec/opcode_table.json (30_encoding.md sections 1, 2 and 6). -/

namespace Sys2Proof

/-- The three ports (30_encoding.md R54). -/
inductive Port where
  | PA   -- Core A, the update side of the counter bank
  | PB   -- Core B, the read side of the counter bank
  | PC   -- Core B, the frame codec
deriving DecidableEq, Repr

/-- One value per port. -/
structure PerPort (α : Type) where
  pa : α
  pb : α
  pc : α
deriving DecidableEq, Repr

/-- The packet: "a tagged variant, one of" four (30_encoding.md R53). -/
inductive Packet where
  | sensorData (sequence : Word) (counters : Vector Word 8)
  | reset (channelId : Byte)
  | ping (timestamp : Word)
  | pong (timestamp : Word)
deriving DecidableEq, Repr

/-- What a core hands a port (30_encoding.md R55, R66). -/
inductive Request where
  /-- A command word and an input byte string (empty where the operation takes none). -/
  | cmd (word : Half) (din : List Byte)
  /-- The pseudo-operation `ENCODE P` (30_encoding.md R66), the packet written as its `SER_REF` image
  (42_frame.md R127). DESIGN CHOICE (log 13): this is how the four PKT_TAG rows reach a port. -/
  | encode (image : List Byte)
deriving DecidableEq, Repr

/-- The instructions: twelve operations, "one constructor carrying its operands" each
(30_encoding.md R55, R57), and the four packet variants of the table's PKT_TAG rows (42_frame.md R127). -/
inductive Instr where
  | cbInc (ch : Channel)
  | cbDec (ch : Channel)
  | cbRd (ch : Channel)
  | cbSnap
  | crc16 (din : List Byte)
  | cobsEnc (din : List Byte)
  | cobsDec (din : List Byte)
  | encFrame (din : List Byte)
  | decFrame (din : List Byte)
  | encPkt (din : List Byte)
  | decPkt (din : List Byte)
  | syncPush (b : Byte)
  | pktSensorData (sequence : Word) (counters : Vector Word 8)
  | pktReset (channelId : Byte)
  | pktPing (timestamp : Word)
  | pktPong (timestamp : Word)
deriving DecidableEq, Repr

/-- Why a request is no instruction of its port. -/
inductive DecodeError where
  /-- The command word is illegal at this port (30_encoding.md R61). -/
  | illegalWord
  /-- The bytes of an `ENCODE` are the image of no packet variant (42_frame.md R128). -/
  | notAPacketImage
deriving DecidableEq, Repr

/-- The pseudo-operations (30_encoding.md R66). -/
inductive PseudoOp where
  | applyDelta (ch : Channel) (delta : Int)
  | snapshot
  | encode (packet : Packet)
  | decode (bytes : List Byte)
deriving DecidableEq, Repr

end Sys2Proof
end

