-- ==== Sys2Proof/Decode.lean ====
section
/-! DEFINITION. The command-word decoder, total on any request and rejecting by name, the encoder, and the
reference packet images `SER_REF` and `DE_REF` (30_encoding.md R56 to R61, R66; 42_frame.md R127, R128). -/

namespace Sys2Proof

/-! ## Packet images (42_frame.md R127, R128) -/

/-- `be32(v)`: four bytes, most significant first (00_scope.md R9). -/
def be32 (v : Word) : List Byte :=
  [v.extractLsb' 24 8, v.extractLsb' 16 8, v.extractLsb' 8 8, v.extractLsb' 0 8]

/-- The 32-bit value of four bytes, most significant first. -/
def ofBe32 (b3 b2 b1 b0 : Byte) : Word := b3 ++ b2 ++ b1 ++ b0

/-- `SER_REF` (42_frame.md R127): one tag byte, then the fields at full width, big-endian. -/
def serRef : Packet → List Byte
  | .sensorData sequence counters => 0x00#8 :: (be32 sequence ++ counters.toList.flatMap be32)
  | .reset channelId => [0x01#8, channelId]
  | .ping timestamp => 0x02#8 :: be32 timestamp
  | .pong timestamp => 0x03#8 :: be32 timestamp

/-- The 32-bit big-endian fields of a byte string whose length is a multiple of four, else `none`. -/
def be32Fields : List Byte → Option (List Word)
  | [] => some []
  | b3 :: b2 :: b1 :: b0 :: rest => (be32Fields rest).map (ofBe32 b3 b2 b1 b0 :: ·)
  | _ => none

/-- The fields after a `SensorData` tag: the sequence number and exactly eight counters (42_frame.md R128). -/
def sensorDataOf : List Word → Option Packet
  | [sequence, c0, c1, c2, c3, c4, c5, c6, c7] =>
    some (.sensorData sequence #v[c0, c1, c2, c3, c4, c5, c6, c7])
  | _ => none

/-- `DE_REF` (42_frame.md R128). A wrong length for the tag, and every tag above `0x03`, is `none`. -/
def deRef : List Byte → Option Packet
  | [] => none
  | tag :: body =>
    if tag = 0x00#8 then (be32Fields body).bind sensorDataOf
    else if tag = 0x01#8 then
      match body with
      | [channelId] => some (.reset channelId)
      | _ => none
    else if tag = 0x02#8 then
      match body with
      | [b3, b2, b1, b0] => some (.ping (ofBe32 b3 b2 b1 b0))
      | _ => none
    else if tag = 0x03#8 then
      match body with
      | [b3, b2, b1, b0] => some (.pong (ofBe32 b3 b2 b1 b0))
      | _ => none
    else none

/-- The instruction a packet variant is: the PKT_TAG row of its tag. -/
def Instr.ofPacket : Packet → Instr
  | .sensorData sequence counters => .pktSensorData sequence counters
  | .reset channelId => .pktReset channelId
  | .ping timestamp => .pktPing timestamp
  | .pong timestamp => .pktPong timestamp

/-! ## The decoder -/

/-- `opc`: `cmd[15:8]` (30_encoding.md R56). -/
def opcOf (word : Half) : Byte := word.extractLsb' 8 8

/-- `arg`: `cmd[7:0]` (30_encoding.md R56). -/
def argOf (word : Half) : Byte := word.extractLsb' 0 8

/-- An operation on a channel: `ch = zext(arg[2:0])`, and `arg[7:3]` must be zero (30_encoding.md R58). -/
def withChannel (arg : Byte) (op : Channel → Instr) : Except DecodeError Instr :=
  if arg.extractLsb' 3 5 = 0#5 then .ok (op (arg.extractLsb' 0 3).toFin) else .error .illegalWord

/-- An operation whose `arg` is reserved and must be `0x00` (30_encoding.md R59). -/
def withoutArg (arg : Byte) (i : Instr) : Except DecodeError Instr :=
  if arg = 0#8 then .ok i else .error .illegalWord

/-- The operations of port PA (30_encoding.md R57). -/
def decodePA (opc arg : Byte) : Except DecodeError Instr :=
  if opc = 0x10#8 then withChannel arg .cbInc
  else if opc = 0x11#8 then withChannel arg .cbDec
  else .error .illegalWord

/-- The operations of port PB (30_encoding.md R57). -/
def decodePB (opc arg : Byte) : Except DecodeError Instr :=
  if opc = 0x20#8 then withChannel arg .cbRd
  else if opc = 0x21#8 then withoutArg arg .cbSnap
  else .error .illegalWord

/-- The operations of port PC (30_encoding.md R57). Every `arg` of `SYNC.PUSH` is legal (R59). -/
def decodePC (opc arg : Byte) (din : List Byte) : Except DecodeError Instr :=
  if opc = 0x30#8 then withoutArg arg (.crc16 din)
  else if opc = 0x31#8 then withoutArg arg (.cobsEnc din)
  else if opc = 0x32#8 then withoutArg arg (.cobsDec din)
  else if opc = 0x33#8 then withoutArg arg (.encFrame din)
  else if opc = 0x34#8 then withoutArg arg (.decFrame din)
  else if opc = 0x35#8 then withoutArg arg (.encPkt din)
  else if opc = 0x36#8 then withoutArg arg (.decPkt din)
  else if opc = 0x37#8 then .ok (.syncPush arg)
  else .error .illegalWord

/-- The instruction a request is at a port. A command word is one of that port's operations or illegal
(30_encoding.md R61); an input string beside an operation that takes none is not looked at (DESIGN CHOICE,
log 21); an `ENCODE` is a codec operation, so illegal at PA and PB. -/
def decode (p : Port) (r : Request) : Except DecodeError Instr :=
  match r with
  | .cmd word din =>
    match p with
    | .PA => decodePA (opcOf word) (argOf word)
    | .PB => decodePB (opcOf word) (argOf word)
    | .PC => decodePC (opcOf word) (argOf word) din
  | .encode image =>
    match p with
    | .PC =>
      match deRef image with
      | some packet => .ok (Instr.ofPacket packet)
      | none => .error .notAPacketImage
    | _ => .error .illegalWord

/-! ## The encoder -/

/-- The port that decodes an operation (30_encoding.md R57); a packet is encoded at PC (R66). -/
def Instr.port : Instr → Port
  | .cbInc _ => .PA
  | .cbDec _ => .PA
  | .cbRd _ => .PB
  | .cbSnap => .PB
  | .crc16 _ => .PC
  | .cobsEnc _ => .PC
  | .cobsDec _ => .PC
  | .encFrame _ => .PC
  | .decFrame _ => .PC
  | .encPkt _ => .PC
  | .decPkt _ => .PC
  | .syncPush _ => .PC
  | .pktSensorData _ _ => .PC
  | .pktReset _ => .PC
  | .pktPing _ => .PC
  | .pktPong _ => .PC

/-- A command word from its two fields (30_encoding.md R56). -/
def cmdWord (opc arg : Byte) : Half := opc ++ arg

/-- The `arg` of a channel: `arg[2:0] = ch`, `arg[7:3] = 0` (30_encoding.md R58). -/
def channelArg (ch : Channel) : Byte := (BitVec.ofFin (w := 3) ch).setWidth 8

/-- The request an instruction is (30_encoding.md R57, R65; 42_frame.md R127 for a packet). -/
def encode : Instr → Request
  | .cbInc ch => .cmd (cmdWord 0x10#8 (channelArg ch)) []
  | .cbDec ch => .cmd (cmdWord 0x11#8 (channelArg ch)) []
  | .cbRd ch => .cmd (cmdWord 0x20#8 (channelArg ch)) []
  | .cbSnap => .cmd (cmdWord 0x21#8 0#8) []
  | .crc16 din => .cmd (cmdWord 0x30#8 0#8) din
  | .cobsEnc din => .cmd (cmdWord 0x31#8 0#8) din
  | .cobsDec din => .cmd (cmdWord 0x32#8 0#8) din
  | .encFrame din => .cmd (cmdWord 0x33#8 0#8) din
  | .decFrame din => .cmd (cmdWord 0x34#8 0#8) din
  | .encPkt din => .cmd (cmdWord 0x35#8 0#8) din
  | .decPkt din => .cmd (cmdWord 0x36#8 0#8) din
  | .syncPush b => .cmd (cmdWord 0x37#8 b) []
  | .pktSensorData sequence counters => .encode (serRef (.sensorData sequence counters))
  | .pktReset channelId => .encode (serRef (.reset channelId))
  | .pktPing timestamp => .encode (serRef (.ping timestamp))
  | .pktPong timestamp => .encode (serRef (.pong timestamp))

/-- What a pseudo-operation expands to (30_encoding.md R66), under the serialiser `ser`. A delta other than
+1 and -1 "has no expansion". The request a packet expands to is the core operation, `ENC.PKT {ser(P)}`. -/
def expandPseudo (ser : Packet → List Byte) : PseudoOp → Option Request
  | .applyDelta ch delta =>
    if delta = 1 then some (encode (.cbInc ch))
    else if delta = -1 then some (encode (.cbDec ch))
    else none
  | .snapshot => some (encode .cbSnap)
  | .encode packet => some (encode (.encPkt (ser packet)))
  | .decode bytes => some (encode (.decPkt bytes))

/-! ## The table's numbering of an instruction's bits -/

/-- The packet image whose tag is `tag` and whose other bits are zero, at the length 42_frame.md R127 gives
that tag; a tag of no variant stands alone. -/
def zeroImage (tag : Byte) : List Byte :=
  if tag = 0x00#8 then tag :: List.replicate 36 0#8
  else if tag = 0x01#8 then tag :: List.replicate 1 0#8
  else if tag = 0x02#8 then tag :: List.replicate 4 0#8
  else if tag = 0x03#8 then tag :: List.replicate 4 0#8
  else [tag]

/-- Does this port take this request as an instruction? -/
def decodes (p : Port) (r : Request) : Bool :=
  match decode p r with
  | .ok _ => true
  | .error _ => false

/-- The port a request is placed at: the one that decodes it, PC where none does. -/
def portOf (r : Request) : Port :=
  if decodes .PA r then .PA else if decodes .PB r then .PB else .PC

/-- The request of a row of spec/opcode_table.json: 8 bits are a packet tag (format PKT_TAG), any other
number of bits a command word (format CMD16) with an empty input string. -/
def tableRequest (nbits w : Nat) : Request :=
  if nbits = 8 then .encode (zeroImage (BitVec.ofNat 8 w)) else .cmd (BitVec.ofNat 16 w) []

/-- The instruction the decoder reads from an instruction whose bits are `w`, as spec/opcode_table.json
numbers them, every bit above `nbits` zero. -/
def decodeTableWord (nbits w : Nat) : Option Instr :=
  if w < 2 ^ nbits then
    match decode (portOf (tableRequest nbits w)) (tableRequest nbits w) with
    | .ok i => some i
    | .error _ => none
  else none

/-! ## The laws of 42_frame.md R126 that a configuration with `SER_REF` needs -/

theorem ofBe32_be32 (v : Word) :
    ofBe32 (v.extractLsb' 24 8) (v.extractLsb' 16 8) (v.extractLsb' 8 8) (v.extractLsb' 0 8) = v := by
  unfold ofBe32
  ext i hi
  simp only [BitVec.getElem_append, BitVec.getElem_extractLsb']
  split <;> rename_i h
  · simp [BitVec.getLsbD_eq_getElem hi]
  · split <;> rename_i h'
    · simp [show 8 + (i - 8) = i by omega, BitVec.getLsbD_eq_getElem hi]
    · split <;> rename_i h''
      · simp [show 16 + (i - 8 - 8) = i by omega, BitVec.getLsbD_eq_getElem hi]
      · simp [show 24 + (i - 8 - 8 - 8) = i by omega, BitVec.getLsbD_eq_getElem hi]

theorem be32Fields_flatMap (vs : List Word) : be32Fields (vs.flatMap be32) = some vs := by
  induction vs with
  | nil => rfl
  | cons v vs ih =>
    simp [be32, be32Fields, ofBe32_be32] at ih ⊢
    exact ih

/-- `DE_REF(SER_REF(P)) = P` for every `P` (42_frame.md R128). -/
theorem deRef_serRef (packet : Packet) : deRef (serRef packet) = some packet := by
  cases packet with
  | sensorData sequence counters =>
    have h := be32Fields_flatMap (sequence :: counters.toList)
    simp only [List.flatMap_cons] at h
    simp only [serRef, deRef, if_true, h, Option.bind_some]
    obtain ⟨⟨l⟩, hl⟩ := counters
    match l, hl with
    | [c0, c1, c2, c3, c4, c5, c6, c7], _ => rfl
  | reset channelId => rfl
  | ping timestamp => simp [serRef, deRef, be32, ofBe32_be32]
  | pong timestamp => simp [serRef, deRef, be32, ofBe32_be32]

/-- The lengths of the images of 42_frame.md R127 are at most 37. -/
theorem serRef_length_le (packet : Packet) : (serRef packet).length ≤ 37 := by
  cases packet with
  | sensorData sequence counters => simp [serRef, be32]
  | reset channelId => simp [serRef]
  | ping timestamp => simp [serRef, be32]
  | pong timestamp => simp [serRef, be32]

end Sys2Proof
end

