-- ==== Sys2Proof/Config.lean ====
section
/-! DEFINITION. The configuration of the hardware (00_scope.md R6 to R8, 10_state.md R14) and the two free
values of the model: the configuration itself and the answers to open choices. -/

namespace Sys2Proof

/-- The configuration record `cfg` (00_scope.md R6). -/
structure Cfg where
  /-- `cfg.SYNC_WORD`: four bytes. -/
  syncWord : Vector Byte 4
  /-- `cfg.MAX_COBS_LEN`. -/
  maxCobsLen : Nat
  /-- `cfg.TRAILING_DELIM`. -/
  trailingDelim : Bool
  /-- `cfg.SER`. -/
  ser : Packet → List Byte
  /-- `cfg.DE`. -/
  de : List Byte → Option Packet

/-- `DLM`: 1 when the trailing delimiter is counted in `L`, else 0 (00_scope.md R8). -/
def Cfg.dlm (cfg : Cfg) : Nat := if cfg.trailingDelim then 1 else 0

/-- `MAX_RAW = cfg.MAX_COBS_LEN - 1 - DLM` (00_scope.md R8). -/
def Cfg.maxRaw (cfg : Cfg) : Nat := cfg.maxCobsLen - 1 - cfg.dlm

/-- The constraints of 00_scope.md R6 and the laws of 42_frame.md R126. -/
structure Cfg.Lawful (cfg : Cfg) : Prop where
  /-- A usable configuration holds at least the empty payload (00_scope.md R8). -/
  minLen : 1 + cfg.dlm ≤ cfg.maxCobsLen
  /-- Payload and checksum do not overlap (00_scope.md R7). -/
  maxLen : cfg.maxCobsLen ≤ 57
  /-- 42_frame.md R126 (a). -/
  roundTrip : ∀ packet, cfg.de (cfg.ser packet) = some packet
  /-- 42_frame.md R126 (b). -/
  budget : ∀ packet, (cfg.ser packet).length ≤ cfg.maxRaw

/-- `CFG_REF`: the reference configuration, "only so that the vectors have concrete bytes" (00_scope.md R6). -/
def Cfg.ref : Cfg where
  syncWord := #v[0xA5#8, 0x5A#8, 0xC3#8, 0x3C#8]
  maxCobsLen := 57
  trailingDelim := true
  ser := serRef
  de := deRef

theorem Cfg.ref_lawful : Cfg.ref.Lawful where
  minLen := by decide
  maxLen := by decide
  roundTrip := deRef_serRef
  budget := fun packet => Nat.le_trans (serRef_length_le packet) (by decide)

/-- A configuration together with what 00_scope.md R6 requires of it. -/
structure LawfulCfg where
  cfg : Cfg := Cfg.ref
  lawful : cfg.Lawful := by exact Cfg.ref_lawful
deriving Inhabited

/-- The configuration of the hardware: a FREE VALUE, any configuration that meets 00_scope.md R6
(93_implementation_defined.md U11; log 1). It has no body: nothing about it can be proved but its laws. -/
opaque Config.chosen : LawfulCfg

/-- The configuration the machine's instructions run under (10_state.md R14). -/
def Config.cfg : Cfg := Config.chosen.cfg

/-- The laws of the hardware's configuration. -/
theorem Config.cfg_lawful : Config.cfg.Lawful := Config.chosen.lawful

/-- The answer to the n-th open choice, which agent moves next (20_memory.md R38) or which cell a snapshot
reads next (44_counter_bank.md R170): a FREE VALUE (log 4). The answer counts modulo the alternatives. -/
opaque Config.freeChoice : Nat → Nat

end Sys2Proof
end

