-- ==== Sys2Proof/WellFormed.lean ====
section
/-! DEFINITION. The operands the spec calls legal (30_encoding.md R60) and the requests a port can be handed
(R55, R57, R60). Ill-formed terms still have a meaning: the machine answers them as R60 says. -/

namespace Sys2Proof

/-- The legal operands of an instruction, the column "Legal `len(din)`" of 30_encoding.md R60. For `ENC.PKT`:
`cfg.DE` accepts the image and it fits (42_frame.md R130). A packet is handed over as `cfg.SER(P)`. -/
def Instr.wellFormed (cfg : Cfg) : Instr → Bool
  | .cbInc _ => true
  | .cbDec _ => true
  | .cbRd _ => true
  | .cbSnap => true
  | .crc16 din => decide (din.length ≤ bufferSize)
  | .cobsEnc din => decide (din.length ≤ cfg.maxRaw)
  | .cobsDec din => decide (din.length ≤ cfg.maxCobsLen)
  | .encFrame din => decide (din.length ≤ cfg.maxRaw)
  | .decFrame _ => true
  | .encPkt din => (cfg.de din).isSome && decide (din.length ≤ cfg.maxRaw)
  | .decPkt _ => true
  | .syncPush _ => true
  | .pktSensorData sequence counters => decide ((cfg.ser (.sensorData sequence counters)).length ≤ cfg.maxRaw)
  | .pktReset channelId => decide ((cfg.ser (.reset channelId)).length ≤ cfg.maxRaw)
  | .pktPing timestamp => decide ((cfg.ser (.ping timestamp)).length ≤ cfg.maxRaw)
  | .pktPong timestamp => decide ((cfg.ser (.pong timestamp)).length ≤ cfg.maxRaw)

/-- Does the operation of a command word take an input string? The eight PC operations but `SYNC.PUSH` do
(30_encoding.md R57). -/
def takesDin (p : Port) (word : Half) : Bool :=
  decide (p = .PC) && decide (opcOf word ≠ 0x37#8)

/-- A request as a port can be handed it: "Ports PA and PB have no `din`" and `SYNC.PUSH` takes none
(30_encoding.md R57, R60); a packet goes to PC (R66). -/
def Request.wellFormed (p : Port) : Request → Bool
  | .cmd word din => takesDin p word || din.isEmpty
  | .encode image => decide (p = .PC) && (deRef image).isSome

end Sys2Proof
end

