-- ==== Sys2Proof/Machine/State.lean ====
section
/-! DEFINITION. The state of FCB as plain data (10_state.md R10), the outcomes' reasons, and the state after
reset (10_state.md R20). -/

namespace Sys2Proof.Machine

/-- The status codes (60_exceptions.md R181). The reserved codes `0xC` to `0xF` "are never returned" and
have no constructor (93_implementation_defined.md U10). -/
inductive Status where
  | ok
  | rejSize
  | rejSync
  | rejLen
  | rejCrc
  | rejStuff
  | rejParse
  | errOverflow
  | errIllegal
  | errOperand
  | pending
  | errFaulted
deriving DecidableEq, Repr

/-- The output of an operation (30_encoding.md R55, R57): none, a byte string, a `u16`, an `i32` or eight. -/
inductive Dout where
  | nothing
  | bytes (b : List Byte)
  | checksum (k : Half)
  | cell (v : Word)
  | cells (v : Vector Word 8)
deriving DecidableEq, Repr

/-- What an operation returns, `(st, out)` (30_encoding.md R55). -/
structure Reply where
  status : Status
  dout : Dout
deriving DecidableEq, Repr

/-- `pfault[p]` (10_state.md R16). -/
structure PortFault where
  set : Bool
  code : BitVec 4
deriving DecidableEq, Repr

/-- `sd_state` (43_sync.md R141). -/
inductive DetectorState where
  | hunt
  | collect
deriving DecidableEq, Repr

/-- The state of FCB (10_state.md R10), and the model's own record of what a run is given and gives. -/
structure State where
  /-- `cb[0..8)`: the counter cells (10_state.md R11). -/
  cb : Vector Word 8
  /-- `snap_active`: a `CB.SNAP` has begun and not returned (10_state.md R18). -/
  snapActive : Bool
  /-- `snap_todo`: the channels not yet read, one bit per channel (10_state.md R18). -/
  snapTodo : Vector Bool 8
  /-- `snap_val[0..8)`: the values read so far (10_state.md R18). -/
  snapVal : Vector Word 8
  /-- `sd_state` (10_state.md R17). -/
  sdState : DetectorState
  /-- `sd_win[0..4)`: the last bytes pushed while hunting, oldest first (10_state.md R17). -/
  sdWin : Vector Byte 4
  /-- `sd_fill`: 0 to 4 (10_state.md R17). -/
  sdFill : Fin 5
  /-- `rx_buf[0..64)`: the frame candidate (10_state.md R17). -/
  rxBuf : Vector Byte 64
  /-- `rx_cnt`: 0 to 64 (10_state.md R17). -/
  rxCnt : Fin 65
  /-- `pfault[p]` (10_state.md R16). -/
  pfault : PerPort PortFault
  /-- MODEL'S OWN (log 5): the operations each core has still to issue at its port, oldest first, the
  program lists of 70_reset_and_hazards.md R214. -/
  queue : PerPort (List Request)
  /-- MODEL'S OWN (log 6): the results returned at each port, newest first. -/
  replies : PerPort (List Reply)
  /-- MODEL'S OWN (log 8): assertions of hardware reset still to come (70_reset_and_hazards.md R215). -/
  resetsDue : Nat
  /-- MODEL'S OWN (log 4): answers to the next open choices, fixed in advance. -/
  choices : List Nat
  /-- MODEL'S OWN (log 4): how many open choices took the free value `Config.freeChoice`. -/
  drawn : Nat
deriving DecidableEq, Repr

/-- Why the machine stops with a fault. The faults of the SPEC (60_exceptions.md R188, R189) are no stops:
they are next states with `pfault` set. -/
inductive Fault where
  /-- Raised by `SYNC.PUSH` in `COLLECT` with `rx_cnt = 64`, where `rx_buf[rx_cnt]` names no byte
  (43_sync.md R142; log 12). SAFE: 43_sync.md R147 (b) says no run gets there. -/
  | rxIndexOutOfRange
deriving DecidableEq, Repr

/-- Why the machine refuses. -/
inductive Refusal where
  /-- Raised by an arm of `exec` that has no meaning yet. SAFE. No arm raises it. -/
  | notModelled (mnemonic : String)
deriving DecidableEq, Repr

/-- The outcome of one step. -/
abbrev Result := Host.Outcome State Fault Refusal

/-- The state after hardware reset (10_state.md R20). The spec leaves `snap_val`, `sd_win` and `rx_buf`
unspecified: zero is a DESIGN CHOICE (log 9, 10, 11), UNSAFE for a claim that rests on it. The model's own
fields are empty (log 4, 5, 6, 8): FCB "waits for the first operation at each port". -/
def State.reset : State where
  cb := Vector.replicate 8 0#32
  snapActive := false
  snapTodo := Vector.replicate 8 false
  snapVal := Vector.replicate 8 0#32
  sdState := .hunt
  sdWin := Vector.replicate 4 0#8
  sdFill := 0
  rxBuf := Vector.replicate 64 0#8
  rxCnt := 0
  pfault := ⟨⟨false, 0#4⟩, ⟨false, 0#4⟩, ⟨false, 0#4⟩⟩
  queue := ⟨[], [], []⟩
  replies := ⟨[], [], []⟩
  resetsDue := 0
  choices := []
  drawn := 0

end Sys2Proof.Machine
end

