-- ==== Sys2Proof/Machine/Flags.lean ====
section
/-! DEFINITION. FCB has no arithmetic flags (10_state.md R13); what stands in their place is the 4-bit status
an operation returns (60_exceptions.md R181): its numbers and its kinds. -/

namespace Sys2Proof.Machine

/-- The number of a status (60_exceptions.md R181). -/
def Status.code : Status → BitVec 4
  | .ok => 0x0#4
  | .rejSize => 0x1#4
  | .rejSync => 0x2#4
  | .rejLen => 0x3#4
  | .rejCrc => 0x4#4
  | .rejStuff => 0x5#4
  | .rejParse => 0x6#4
  | .errOverflow => 0x7#4
  | .errIllegal => 0x8#4
  | .errOperand => 0x9#4
  | .pending => 0xA#4
  | .errFaulted => 0xB#4

/-- Is this status one of the two faults (60_exceptions.md R181, kind "fault")? -/
def Status.isFault : Status → Bool
  | .errOverflow => true
  | .errIllegal => true
  | .ok => false
  | .rejSize => false
  | .rejSync => false
  | .rejLen => false
  | .rejCrc => false
  | .rejStuff => false
  | .rejParse => false
  | .errOperand => false
  | .pending => false
  | .errFaulted => false

/-- Is this status one of the six rejects (60_exceptions.md R182)? -/
def Status.isReject : Status → Bool
  | .rejSize => true
  | .rejSync => true
  | .rejLen => true
  | .rejCrc => true
  | .rejStuff => true
  | .rejParse => true
  | .ok => false
  | .errOverflow => false
  | .errIllegal => false
  | .errOperand => false
  | .pending => false
  | .errFaulted => false

/-- A reply without an output. -/
def Reply.only (st : Status) : Reply := ⟨st, .nothing⟩

/-- `(OK, out)`. -/
def Reply.okWith (out : Dout) : Reply := ⟨.ok, out⟩

end Sys2Proof.Machine
end

