-- ==== Sys2Proof/Machine/Ops.lean ====
section
/-! DEFINITION. The named operations over the state: ports and their replies, the two memory primitives, open
choices, `raise Fault`, hardware reset, and the choice and fetch of what runs next. -/

namespace Sys2Proof.Machine

/-! ## One value per port -/

/-- The value of port `p`. -/
def portGet {α : Type} (v : PerPort α) : Port → α
  | .PA => v.pa
  | .PB => v.pb
  | .PC => v.pc

/-- `v` with port `p`'s value replaced. -/
def portSet {α : Type} (v : PerPort α) (p : Port) (x : α) : PerPort α :=
  match p with
  | .PA => { v with pa := x }
  | .PB => { v with pb := x }
  | .PC => { v with pc := x }

/-- `pfault[p].set` (10_state.md R16). -/
def State.faulted (s : State) (p : Port) : Bool := (portGet s.pfault p).set

/-! ## Returning a result -/

/-- `return (st, out)` at port `p` (30_encoding.md R55): the operation the port was performing is done, so it
leaves the port's list, and its result is recorded (log 5, 6). -/
def State.answer (s : State) (p : Port) (r : Reply) : State :=
  { s with
    queue := portSet s.queue p (portGet s.queue p).tail
    replies := portSet s.replies p (r :: portGet s.replies p) }

/-- `raise Fault(p, code)` (60_exceptions.md R190): the port's fault is recorded, the operation returns
`(code, none)` and has no other effect. FCB's counterpart of taking an exception: nothing is saved and
nothing is vectored. There is no return from it (R192): only `State.hardwareReset` clears it. -/
def State.raiseFault (s : State) (p : Port) (st : Status) : State :=
  { s with pfault := portSet s.pfault p ⟨true, st.code⟩ }.answer p (Reply.only st)

/-- The end of an operation whose whole effect is its reply: a fault status is raised, any other returned
(60_exceptions.md R183, R184, R190). -/
def State.respond (s : State) (p : Port) (r : Reply) : State :=
  if r.status.isFault then s.raiseFault p r.status else s.answer p r

/-- "A faulted port performs nothing": every operation issued at it returns `(ERR_FAULTED, none)` and changes
no state (60_exceptions.md R191). Otherwise the operation is performed. -/
def atPort (p : Port) (s : State) (perform : State → Result) : Result :=
  if s.faulted p then .next (s.answer p (Reply.only .errFaulted)) else perform s

/-- A codec operation, "one indivisible step of its port" that touches no shared state (20_memory.md R37,
R46): its effect is its reply. -/
def codecOp (r : Reply) (s : State) : Result := atPort .PC s fun s => .next (s.respond .PC r)

/-! ## The memory primitives (20_memory.md R34, R35) -/

/-- `CellRead(i)`. -/
def State.cellRead (s : State) (i : Channel) : Word := s.cb[i.val]

/-- `CellRMW(i, f)`: `cb[i]` becomes `f(cb[i])` in one step. -/
def State.cellRMW (s : State) (i : Channel) (f : Word → Word) : State :=
  { s with cb := s.cb.set i.val (f s.cb[i.val]) }

/-! ## Open choices (log 4) -/

/-- The next answer to an open choice: the first of `choices`, or the free value when none is left. -/
def State.draw (s : State) : Nat × State :=
  match s.choices with
  | c :: rest => (c, { s with choices := rest })
  | [] => (Config.freeChoice s.drawn, { s with drawn := s.drawn + 1 })

/-- One member of a list, chosen freely; with one member there is nothing to choose. -/
def State.pick {α : Type} (s : State) : List α → Option (α × State)
  | [] => none
  | [x] => some (x, s)
  | x :: y :: rest =>
    some ((x :: y :: rest).getD (s.draw.1 % (rest.length + 2)) x, s.draw.2)

/-! ## Hardware reset (70_reset_and_hazards.md R210) -/

/-- "Hardware reset ... puts every piece of state at the value in the table of 10_state.md rule R20"; "an
operation in progress at reset is abandoned with no result": a snapshot in flight leaves PB's list unanswered.
The operations not yet issued, and the results already returned, are the cores' and stay (log 8). -/
def State.hardwareReset (s : State) : State :=
  { State.reset with
    queue := if s.snapActive then portSet s.queue .PB (portGet s.queue .PB).tail else s.queue
    replies := s.replies
    resetsDue := s.resetsDue
    choices := s.choices
    drawn := s.drawn }

/-! ## What moves next -/

/-- Who can take a step: a port with an operation to perform (20_memory.md R38, R40), or an assertion of
hardware reset (70_reset_and_hazards.md R215). -/
inductive Agent where
  | port (p : Port)
  | reset
deriving DecidableEq, Repr

/-- The agents that have a step to take. -/
def State.enabledAgents (s : State) : List Agent :=
  (if s.queue.pa.isEmpty then [] else [.port .PA])
    ++ (if s.queue.pb.isEmpty then [] else [.port .PB])
    ++ (if s.queue.pc.isEmpty then [] else [.port .PC])
    ++ (if s.resetsDue = 0 then [] else [.reset])

/-- Which agent moves next: any that can (20_memory.md R38; log 2), `none` when none can. -/
def State.nextAgent (s : State) : Option (Agent × State) := s.pick s.enabledAgents

/-- A request its port does not take as an instruction, by the order of tests of 60_exceptions.md R185: a
faulted port answers `ERR_FAULTED`; an illegal command word raises `ERR_ILLEGAL` (R189); bytes that are no
packet image are refused as `ENC.PKT` refuses them, with `ERR_OPERAND` (42_frame.md R130; log 14). -/
def State.rejectRequest (s : State) (p : Port) (e : DecodeError) : State :=
  if s.faulted p then s.answer p (Reply.only .errFaulted)
  else
    match e with
    | .illegalWord => s.raiseFault p .errIllegal
    | .notAPacketImage => s.answer p (Reply.only .errOperand)

/-- The assertion of hardware reset that was due takes place. -/
def State.takeReset (s : State) : State :=
  { s with resetsDue := s.resetsDue - 1 }.hardwareReset

/-- Put a request where the next step fetches: first in port `p`'s list, with the choice of the next agent
made for `p` where another agent could move too (log 22). -/
def State.placeRequest (s : State) (p : Port) (r : Request) : State :=
  let t := { s with queue := portSet s.queue p (r :: portGet s.queue p) }
  match t.enabledAgents with
  | [_] => t
  | agents => { t with choices := agents.idxOf (.port p) :: t.choices }

end Sys2Proof.Machine
end

