-- ==== Sys2Proof/Machine/Operands.lean ====
section
/-! DEFINITION. The operand forms: the checks 30_encoding.md R60 makes on an input string before anything
else an operation does. The channel and argument fields are pulled out by the decoder (R58, R59). -/

namespace Sys2Proof.Machine

/-- `din` may be at most `limit` bytes; otherwise `(ERR_OPERAND, none)` with no effect: `CRC16` with 64,
`COBS.DEC` with `cfg.MAX_COBS_LEN` (30_encoding.md R60). -/
def upToOrRefuse (limit : Nat) (din : List Byte) (perform : Reply) : Reply :=
  if din.length > limit then Reply.only .errOperand else perform

/-- `din` may be at most `MAX_RAW` bytes; otherwise the fault `ERR_OVERFLOW`: `COBS.ENC`, `ENC.FRAME`,
`ENC.PKT` (30_encoding.md R60; 60_exceptions.md R188). -/
def upToMaxRawOrFault (cfg : Cfg) (din : List Byte) (perform : Reply) : Reply :=
  if din.length > cfg.maxRaw then Reply.only .errOverflow else perform

/-- `din` must be the image of a packet; otherwise `(ERR_OPERAND, none)`: `ENC.PKT` (30_encoding.md R60). -/
def imageOrRefuse (cfg : Cfg) (din : List Byte) (perform : Reply) : Reply :=
  match cfg.de din with
  | none => Reply.only .errOperand
  | some _ => perform

end Sys2Proof.Machine
end

