-- ==== Sys2Proof/Machine/CounterBank.lean ====
section
/-! DEFINITION. The shared counter bank and the operations `CB.INC`, `CB.DEC`, `CB.RD`, `CB.SNAP`
(44_counter_bank.md). -/

namespace Sys2Proof.Machine

/-- `wrap32(n)` (44_counter_bank.md R163). -/
def wrap32 (n : Int) : Word := BitVec.ofInt 32 n

/-- `CB.INC ch` (44_counter_bank.md R161). -/
def execCbInc (ch : Channel) (s : State) : Result :=
  atPort .PA s fun s => .next ((s.cellRMW ch fun v => wrap32 (v.toInt + 1)).answer .PA (Reply.only .ok))

/-- `CB.DEC ch` (44_counter_bank.md R162). -/
def execCbDec (ch : Channel) (s : State) : Result :=
  atPort .PA s fun s => .next ((s.cellRMW ch fun v => wrap32 (v.toInt - 1)).answer .PA (Reply.only .ok))

/-- `CB.RD ch` (44_counter_bank.md R166). -/
def execCbRd (ch : Channel) (s : State) : Result :=
  atPort .PB s fun s => .next (s.answer .PB (Reply.okWith (.cell (s.cellRead ch))))

/-- The members of `snap_todo`, ascending. -/
def State.snapLeft (s : State) : List Channel := (List.finRange 8).filter fun i => s.snapTodo[i.val]

/-- Begin step of `CB.SNAP` (44_counter_bank.md R168). It "reads no cell". -/
def State.snapBegin (s : State) : State :=
  { s with snapActive := true, snapTodo := Vector.replicate 8 true }

/-- Cell-read step of `CB.SNAP` for channel `i` (44_counter_bank.md R169). -/
def State.snapRead (s : State) (i : Channel) : State :=
  { s with snapVal := s.snapVal.set i.val (s.cellRead i), snapTodo := s.snapTodo.set i.val false }

/-- Return step of `CB.SNAP` (44_counter_bank.md R171). -/
def State.snapReturn (s : State) : State :=
  { s with snapActive := false }.answer .PB (Reply.okWith (.cells s.snapVal))

/-- One step of `CB.SNAP` (44_counter_bank.md R167): begin; then a cell read for any member of `snap_todo`
(R170, "a model leaves the choice open"; log 3); then, when none is left, the return. -/
def State.snapStep (s : State) : State :=
  if s.snapActive then
    match s.pick s.snapLeft with
    | some (i, t) => t.snapRead i
    | none => s.snapReturn
  else s.snapBegin

/-- `CB.SNAP`: its next step (44_counter_bank.md R167). It stays PB's operation until its return step. -/
def execCbSnap (s : State) : Result := atPort .PB s fun s => .next s.snapStep

end Sys2Proof.Machine
end

