-- ==== Sys2Proof/Machine/Checksum.lean ====
section
/-! DEFINITION. CRC-16/KERMIT and the operation `CRC16` (40_checksum.md). -/

namespace Sys2Proof.Machine

/-- One shift of the checksum register (40_checksum.md R82): `>>` is logical, the polynomial is `0x8408`. -/
def crcShift (crc : Half) : Half :=
  if crc.getLsbD 0 then (crc >>> 1) ^^^ 0x8408#16 else crc >>> 1

/-- `n` shifts. -/
def crcShifts : Nat → Half → Half
  | 0, crc => crc
  | n + 1, crc => crcShifts n (crcShift crc)

/-- One byte: it "goes into bits 7..0", then eight shifts (40_checksum.md R82). -/
def crcByte (crc : Half) (b : Byte) : Half := crcShifts 8 (crc ^^^ b.setWidth 16)

/-- `Crc16(s)` (40_checksum.md R82): initial value 0, no final exclusive-or, no reversal. -/
def crc16 (s : List Byte) : Half := s.foldl crcByte 0x0000#16

/-- `be16(v)` (00_scope.md R9). -/
def be16 (v : Half) : List Byte := [v.extractLsb' 8 8, v.extractLsb' 0 8]

/-- `(zext_16(hi) << 8) + zext_16(lo)`: the stored checksum's assembly (30_encoding.md R52). -/
def ofBe16 (hi lo : Byte) : Half := (hi.setWidth 16 <<< 8) + lo.setWidth 16

/-- `CRC16` (40_checksum.md R84). -/
def crc16Reply (din : List Byte) : Reply :=
  upToOrRefuse bufferSize din (Reply.okWith (.checksum (crc16 din)))

/-- `CRC16` (40_checksum.md R84). -/
def execCrc16 (din : List Byte) (s : State) : Result := codecOp (crc16Reply din) s

end Sys2Proof.Machine
end

