-- ==== Sys2Proof/Machine/Cobs.lean ====
section
/-! DEFINITION. Byte stuffing and the operations `COBS.ENC`, `COBS.DEC` (41_cobs.md). -/

namespace Sys2Proof.Machine

/-- A closed run: its code byte, `len + 1`, and its bytes (41_cobs.md R91). -/
def cobsRun (run : List Byte) : List Byte := BitVec.ofNat 8 (run.length + 1) :: run

/-- The encoder's loop (41_cobs.md R91): `run` holds the bytes since the open code byte; a zero closes it. -/
def cobsEncFrom : List Byte → List Byte → List Byte
  | run, [] => cobsRun run
  | run, b :: rest =>
    if b = delim then cobsRun run ++ cobsEncFrom [] rest else cobsEncFrom (run ++ [b]) rest

/-- `CobsEnc(d)` (41_cobs.md R91), for `len(d) <= 253`; no operation calls it on more (R94; log 19). -/
def cobsEnc (d : List Byte) : List Byte := cobsEncFrom [] d

/-- The decoder's loop from the code byte at `s[p]` (41_cobs.md R95), `none` for `malformed`. `fuel` counts
rounds: each takes at least one byte, so the length of the stream is enough. -/
def cobsDecFrom : Nat → List Byte → Option (List Byte)
  | 0, _ => none
  | _ + 1, [] => none
  | fuel + 1, c :: tail =>
    if c = delim then none                                   -- ZERO_CODE (41_cobs.md R96)
    else if c.toNat > tail.length + 1 then none              -- OVERRUN
    else if (tail.take (c.toNat - 1)).contains delim then none   -- ZERO_DATA
    else
      match tail.drop (c.toNat - 1) with
      | [] => some (tail.take (c.toNat - 1))
      | next :: rest =>
        (cobsDecFrom fuel (next :: rest)).map fun out =>
          tail.take (c.toNat - 1) ++ (if c = 0xFF#8 then [] else [delim]) ++ out

/-- `CobsDec(s)` (41_cobs.md R95); the empty stream is malformed (`EMPTY`, R96). -/
def cobsDec (s : List Byte) : Option (List Byte) := cobsDecFrom s.length s

/-- `Stuff(d)` (41_cobs.md R97). -/
def stuff (cfg : Cfg) (d : List Byte) : List Byte :=
  if cfg.trailingDelim then cobsEnc d ++ [delim] else cobsEnc d

/-- `Unstuff(s)` (41_cobs.md R98), `none` for `malformed`. -/
def unstuff (cfg : Cfg) (s : List Byte) : Option (List Byte) :=
  if cfg.trailingDelim then
    if s.getLast? = some delim then cobsDec s.dropLast else none
  else cobsDec s

/-- `COBS.ENC` (41_cobs.md R99). -/
def cobsEncReply (cfg : Cfg) (din : List Byte) : Reply :=
  upToMaxRawOrFault cfg din (Reply.okWith (.bytes (stuff cfg din)))

/-- `COBS.DEC` (41_cobs.md R100). -/
def cobsDecReply (cfg : Cfg) (din : List Byte) : Reply :=
  upToOrRefuse cfg.maxCobsLen din
    (match unstuff cfg din with
      | none => Reply.only .rejStuff
      | some d => Reply.okWith (.bytes d))

/-- `COBS.ENC` (41_cobs.md R99). -/
def execCobsEnc (din : List Byte) (s : State) : Result := codecOp (cobsEncReply Config.cfg din) s

/-- `COBS.DEC` (41_cobs.md R100). -/
def execCobsDec (din : List Byte) (s : State) : Result := codecOp (cobsDecReply Config.cfg din) s

end Sys2Proof.Machine
end

