-- ==== Sys2Proof/Machine/Frame.lean ====
section
/-! DEFINITION. The 64-byte frame and the operations `ENC.FRAME`, `DEC.FRAME`, `ENC.PKT`, `DEC.PKT`, and the
four packet variants as `ENCODE P` (42_frame.md; 30_encoding.md R50 to R52, R66). -/

namespace Sys2Proof.Machine

/-! ## Encoding -/

/-- The checksummed bytes `F[0 .. 5+L)`: sync header, length, stuffed payload (30_encoding.md R50, R51). -/
def frameBody (cfg : Cfg) (stuffed : List Byte) : List Byte :=
  cfg.syncWord.toList ++ BitVec.ofNat 8 stuffed.length :: stuffed

/-- `EncodeFrame(d)` (42_frame.md R111), for `len(d) <= MAX_RAW`; the padding is written as `0x00` (R113;
log 17) and the checksum big-endian (20_memory.md R32). It has 64 bytes ("Fixed size", R125). -/
def encodeFrame (cfg : Cfg) (d : List Byte) : List Byte :=
  let body := frameBody cfg (stuff cfg d)
  body ++ List.replicate (crcOff - body.length) 0#8 ++ be16 (crc16 body)

/-! ## Decoding -/

/-- What a decode says: the raw payload, or the reject that the first failing check gives (42_frame.md R115). -/
inductive Verdict where
  | accepted (payload : List Byte)
  | rejected (why : Status)
deriving DecidableEq, Repr

/-- The length byte `L = zext(F[4])` (30_encoding.md R52). -/
def frameLen (b : List Byte) : Nat := (b.getD lenOff 0#8).toNat

/-- The stored checksum, bytes 62 and 63 (30_encoding.md R52). -/
def storedCrc (b : List Byte) : Half := ofBe16 (b.getD crcOff 0#8) (b.getD (crcOff + 1) 0#8)

/-- `DecodeFrame(b)` (42_frame.md R115): five checks, in the source's order. The source's guards and checksum
sensitivity (R125) are consequences of them. -/
def decodeFrame (cfg : Cfg) (b : List Byte) : Verdict :=
  if b.length ≠ bufferSize then .rejected .rejSize                          -- 42_frame.md R117
  else if b.take 4 ≠ cfg.syncWord.toList then .rejected .rejSync            -- R118
  else if frameLen b = 0 ∨ frameLen b > cfg.maxCobsLen then .rejected .rejLen   -- R119
  else if crc16 (b.take (payOff + frameLen b)) ≠ storedCrc b then .rejected .rejCrc   -- R120
  else
    match unstuff cfg ((b.drop payOff).take (frameLen b)) with              -- R121
    | none => .rejected .rejStuff
    | some d => .accepted d

/-- The decode with the sixth check, the parse (42_frame.md R129, R131); with `encPktReply` it round-trips (R125,
R132). -/
def decodePacket (cfg : Cfg) (b : List Byte) : Verdict :=
  match decodeFrame cfg b with
  | .rejected why => .rejected why
  | .accepted d =>
    match cfg.de d with
    | none => .rejected .rejParse
    | some _ => .accepted d

/-- The answer to a decode: `(OK, d)` or `(REJ_x, none)` (42_frame.md R115). -/
def Verdict.reply : Verdict → Reply
  | .accepted d => Reply.okWith (.bytes d)
  | .rejected why => Reply.only why

/-! ## The operations -/

/-- `ENC.FRAME` (42_frame.md R112). -/
def encFrameReply (cfg : Cfg) (din : List Byte) : Reply :=
  upToMaxRawOrFault cfg din (Reply.okWith (.bytes (encodeFrame cfg din)))

/-- `ENC.PKT` (42_frame.md R130): the parse test comes before the length test. -/
def encPktReply (cfg : Cfg) (din : List Byte) : Reply :=
  imageOrRefuse cfg din (upToMaxRawOrFault cfg din (Reply.okWith (.bytes (encodeFrame cfg din))))

/-- `ENCODE P`, that is `ENC.PKT {cfg.SER(P)}` (30_encoding.md R66; log 13). -/
def encodeReply (cfg : Cfg) (packet : Packet) : Reply := encPktReply cfg (cfg.ser packet)

/-- `ENC.FRAME` (42_frame.md R112). -/
def execEncFrame (din : List Byte) (s : State) : Result := codecOp (encFrameReply Config.cfg din) s

/-- `DEC.FRAME` (42_frame.md R116). -/
def execDecFrame (din : List Byte) (s : State) : Result := codecOp (decodeFrame Config.cfg din).reply s

/-- `ENC.PKT`, the source's `Encode(packet)` (42_frame.md R130). -/
def execEncPkt (din : List Byte) (s : State) : Result := codecOp (encPktReply Config.cfg din) s

/-- `DEC.PKT`, the source's `Decode(bytes)` (42_frame.md R131). -/
def execDecPkt (din : List Byte) (s : State) : Result := codecOp (decodePacket Config.cfg din).reply s

/-! ## The packet variants -/

/-- The packet variant `SensorData` (42_frame.md R127), handed over as `ENCODE P` (30_encoding.md R66). -/
def execPktSensorData (sequence : Word) (counters : Vector Word 8) (s : State) : Result :=
  codecOp (encodeReply Config.cfg (.sensorData sequence counters)) s

/-- The packet variant `Reset` (42_frame.md R127). FCB encodes it and "does nothing else with it"
(70_reset_and_hazards.md R211). -/
def execPktReset (channelId : Byte) (s : State) : Result :=
  codecOp (encodeReply Config.cfg (.reset channelId)) s

/-- The packet variant `Ping` (42_frame.md R127). -/
def execPktPing (timestamp : Word) (s : State) : Result :=
  codecOp (encodeReply Config.cfg (.ping timestamp)) s

/-- The packet variant `Pong` (42_frame.md R127). -/
def execPktPong (timestamp : Word) (s : State) : Result :=
  codecOp (encodeReply Config.cfg (.pong timestamp)) s

end Sys2Proof.Machine
end

