-- ==== Sys2Proof/Machine/Sync.lean ====
section
/-! DEFINITION. The streaming sync-header detector and the operation `SYNC.PUSH` (43_sync.md). -/

namespace Sys2Proof.Machine

/-- `HuntStep(b)`, first half (43_sync.md R143): the window takes the byte. -/
def State.windowTakes (s : State) (b : Byte) : State :=
  if h : s.sdFill.val < 4 then
    { s with sdWin := s.sdWin.set s.sdFill.val b h, sdFill := ⟨s.sdFill.val + 1, by omega⟩ }
  else
    { s with sdWin := #v[s.sdWin[1], s.sdWin[2], s.sdWin[3], b] }

/-- `rx_buf[0 .. 4) <- SYNC_WORD[0 .. 4)` (43_sync.md R144). -/
def withHeader (buf : Vector Byte 64) (w : Vector Byte 4) : Vector Byte 64 :=
  (((buf.set 0 w[0]).set 1 w[1]).set 2 w[2]).set 3 w[3]

/-- `HuntStep(b)`, second half (43_sync.md R144): the comparison with the whole header. -/
def State.matchHeader (cfg : Cfg) (s : State) : State :=
  if s.sdFill.val = 4 ∧ s.sdWin = cfg.syncWord then
    { s with rxBuf := withHeader s.rxBuf cfg.syncWord, rxCnt := 4, sdFill := 0, sdState := .collect }
  else s

/-- `HuntStep(b)` (43_sync.md R143, R144). -/
def State.huntStep (cfg : Cfg) (s : State) (b : Byte) : State := (s.windowTakes b).matchHeader cfg

/-- Completion (43_sync.md R146): the detector returns to `HUNT` with an empty window. -/
def State.detectorRestarts (s : State) : State := { s with sdState := .hunt, sdFill := 0, rxCnt := 0 }

/-- A push in `COLLECT` (43_sync.md R142, R145, R146): the byte is stored whatever its value, and the 64th is
decoded at once with all six checks. -/
def State.collectStep (cfg : Cfg) (s : State) (b : Byte) : Result :=
  if h : s.rxCnt.val < 64 then
    let t := { s with rxBuf := s.rxBuf.set s.rxCnt.val b h, rxCnt := ⟨s.rxCnt.val + 1, by omega⟩ }
    if s.rxCnt.val + 1 < 64 then .next (t.answer .PC (Reply.only .pending))
    else .next (t.detectorRestarts.answer .PC (decodePacket cfg t.rxBuf.toList).reply)
  else .fault .rxIndexOutOfRange

/-- `SYNC.PUSH b` at a port that is not faulted (43_sync.md R142). -/
def State.push (cfg : Cfg) (s : State) (b : Byte) : Result :=
  match s.sdState with
  | .hunt => .next ((s.huntStep cfg b).answer .PC (Reply.only .pending))
  | .collect => s.collectStep cfg b

/-- `SYNC.PUSH b` (43_sync.md R142). -/
def execSyncPush (b : Byte) (s : State) : Result := atPort .PC s fun s => s.push Config.cfg b

end Sys2Proof.Machine
end

