-- ==== Sys2Proof/Machine/Dispatch.lean ====
section
/-! DEFINITION. One arm per constructor of Instr: the direct call of its meaning. -/

namespace Sys2Proof.Machine

def exec (i : Instr) (s : State) : Host.Outcome State Fault Refusal :=
  match i with
  | .cbInc ch => Sys2Proof.Machine.execCbInc ch s
  | .cbDec ch => Sys2Proof.Machine.execCbDec ch s
  | .cbRd ch => Sys2Proof.Machine.execCbRd ch s
  | .cbSnap => Sys2Proof.Machine.execCbSnap s
  | .crc16 din => Sys2Proof.Machine.execCrc16 din s
  | .cobsEnc din => Sys2Proof.Machine.execCobsEnc din s
  | .cobsDec din => Sys2Proof.Machine.execCobsDec din s
  | .encFrame din => Sys2Proof.Machine.execEncFrame din s
  | .decFrame din => Sys2Proof.Machine.execDecFrame din s
  | .encPkt din => Sys2Proof.Machine.execEncPkt din s
  | .decPkt din => Sys2Proof.Machine.execDecPkt din s
  | .syncPush b => Sys2Proof.Machine.execSyncPush b s
  | .pktSensorData sequence counters => Sys2Proof.Machine.execPktSensorData sequence counters s
  | .pktReset channelId => Sys2Proof.Machine.execPktReset channelId s
  | .pktPing timestamp => Sys2Proof.Machine.execPktPing timestamp s
  | .pktPong timestamp => Sys2Proof.Machine.execPktPong timestamp s

end Sys2Proof.Machine
end

