-- ==== Sys2Proof/Machine/Step.lean ====
section
/-! DEFINITION. One step of FCB: an agent that can move is chosen; a port takes the first request of its list
and performs it, or one step of it (20_memory.md R38); a due hardware reset takes place. -/

namespace Sys2Proof.Machine

/-- Port `p` performs the first request of its list. -/
def portStep (s : State) (p : Port) : Host.Outcome State Fault Refusal :=
  match portGet s.queue p with
  | [] => .next s
  | r :: _ =>
    match decode p r with
    | .ok i => exec i s
    | .error e => .next (s.rejectRequest p e)

/-- One step. With nothing to do FCB waits (10_state.md R20, "it waits for the first operation at each port";
log 7). -/
def step (s : State) : Host.Outcome State Fault Refusal :=
  match s.nextAgent with
  | none => .next s
  | some (.port p, t) => portStep t p
  | some (.reset, t) => .next t.takeReset

/-- `s` with the instruction whose bits are `w` (as spec/opcode_table.json numbers them) issued as the next
operation of the port that decodes it (log 5, 22). -/
def State.withFetchWord (s : State) (nbits w : Nat) : State :=
  s.placeRequest (portOf (tableRequest nbits w)) (tableRequest nbits w)

end Sys2Proof.Machine
end

