-- ==== Sys2Proof/Safety.lean ====
section
/-! DEFINITION. What counts as a legal state and as the end of a run, in the terms the statements use
(43_sync.md R147; 44_counter_bank.md R168 to R171; 60_exceptions.md R190, R191; 70_reset_and_hazards.md R214). -/

namespace Sys2Proof.Machine

/-! ## The end of a run (70_reset_and_hazards.md R214) -/

/-- Every port has answered its last listed operation or faulted, and no snapshot is in flight. Assertions of
hardware reset still due are not looked at: DESIGN CHOICE (log 24), R214 knows only the three lists; so a run
that is over can still take a step, the reset, which clears the cells. A last listed `CB.SNAP` that hardware
reset abandoned with no result (R210) has left the list, so the run is over without it having returned a status:
DESIGN CHOICE (log 25). -/
def runOver (s : State) : Bool :=
  (s.queue.pa.isEmpty || s.pfault.pa.set) && (s.queue.pb.isEmpty || s.pfault.pb.set)
    && (s.queue.pc.isEmpty || s.pfault.pc.set) && !s.snapActive

/-- A good final state: over, and no fault recorded. As `runOver`, it does not look at `resetsDue` (log 24), and an
abandoned `CB.SNAP` does not spoil it (log 25). -/
def goodFinal (s : State) : Bool :=
  runOver s && !s.pfault.pa.set && !s.pfault.pb.set && !s.pfault.pc.set

/-! ## The invariant -/

/-- 43_sync.md R147 (a), (b), (c). -/
abbrev DetectorOk (cfg : Cfg) (s : State) : Prop :=
  (s.sdState = .hunt → s.rxCnt.val = 0 ∧ (s.sdFill.val = 4 → s.sdWin ≠ cfg.syncWord)) ∧
  (s.sdState = .collect → 4 ≤ s.rxCnt.val ∧ s.rxCnt.val ≤ 63 ∧ s.sdFill.val = 0 ∧
    s.rxBuf.toList.take 4 = cfg.syncWord.toList)

/-- A port's fault code is meaningful only while its bit is set (10_state.md R16), and then it is one of
`codes`. -/
abbrev PortFaultOk (f : PortFault) (codes : List (BitVec 4)) : Prop :=
  (f.set = false → f.code = 0#4) ∧ (f.set = true → f.code ∈ codes)

/-- `ERR_ILLEGAL` can be raised at any port, `ERR_OVERFLOW` only at PC (60_exceptions.md R188, R189). -/
abbrev FaultsOk (s : State) : Prop :=
  PortFaultOk s.pfault.pa [0x8#4] ∧ PortFaultOk s.pfault.pb [0x8#4] ∧
    PortFaultOk s.pfault.pc [0x7#4, 0x8#4]

/-- Is `CB.SNAP` the operation PB is performing? -/
def snapIsCurrent (s : State) : Bool :=
  match s.queue.pb with
  | [] => false
  | r :: _ => match decode .PB r with
    | .ok .cbSnap => true
    | _ => false

/-- While a snapshot is in flight it is PB's operation and PB has not faulted (60_exceptions.md R191,
44_counter_bank.md R171); otherwise no channel is left to read (R168, R171). -/
abbrev SnapshotOk (s : State) : Prop :=
  (s.snapActive = true → snapIsCurrent s = true ∧ s.pfault.pb.set = false) ∧
  (s.snapActive = false → s.snapTodo = Vector.replicate 8 false)

/-- The invariant of the machine. -/
abbrev Inv (s : State) : Prop := DetectorOk Config.cfg s ∧ FaultsOk s ∧ SnapshotOk s

/-! ## Parts of the state, for frames -/

/-- The counter-bank unit is the same (10_state.md R10, unit "counter bank"). -/
abbrev SameBank (s t : State) : Prop :=
  t.cb = s.cb ∧ t.snapActive = s.snapActive ∧ t.snapTodo = s.snapTodo ∧ t.snapVal = s.snapVal

/-- The sync detector is the same (10_state.md R10, unit "sync detector"). -/
abbrev SameDetector (s t : State) : Prop :=
  t.sdState = s.sdState ∧ t.sdWin = s.sdWin ∧ t.sdFill = s.sdFill ∧ t.rxBuf = s.rxBuf ∧ t.rxCnt = s.rxCnt

/-- Everything a run holds about a port other than `p` is the same. -/
abbrev SamePortsBut (p : Port) (s t : State) : Prop :=
  ∀ q, q ≠ p → portGet t.pfault q = portGet s.pfault q ∧ portGet t.queue q = portGet s.queue q ∧
    portGet t.replies q = portGet s.replies q

/-! ## Sequences of instructions -/

/-- The instructions of a list, one after another, stopping at the first stop. -/
def execAll : List Instr → State → Result
  | [], s => .next s
  | i :: rest, s =>
    match exec i s with
    | .next t => execAll rest t
    | .fault r => .fault r
    | .refused r => .refused r

end Sys2Proof.Machine
end

