-- ==== Sys2Proof/Certificates/Slice0/Obligations.lean ====
section
/-! DEFINITION. The statements about FCB, each from the rules of spec/ its docstring names. A result statement
gives the whole next state as the old one with the fields that change, so it states the frame too. -/

open Sys2Proof Sys2Proof.Machine

/-! ## Port PA: the update side of the counter bank -/

/-- 44_counter_bank.md R161, R163: `CB.INC ch` adds one to cell `ch`, modulo 2^32, returns `(OK, none)`, and
changes nothing else. -/
def Obligations.CbIncAddsOne : Prop :=
  ∀ (ch : Channel) (s : State), s.faulted .PA = false →
    exec (.cbInc ch) s = .next { s with
      cb := s.cb.set ch.val (BitVec.ofInt 32 (s.cb[ch.val].toInt + 1))
      queue := { s.queue with pa := s.queue.pa.tail }
      replies := { s.replies with pa := ⟨.ok, .nothing⟩ :: s.replies.pa } }

/-- 44_counter_bank.md R162, R163: `CB.DEC ch` subtracts one from cell `ch`, modulo 2^32. -/
def Obligations.CbDecSubtractsOne : Prop :=
  ∀ (ch : Channel) (s : State), s.faulted .PA = false →
    exec (.cbDec ch) s = .next { s with
      cb := s.cb.set ch.val (BitVec.ofInt 32 (s.cb[ch.val].toInt - 1))
      queue := { s.queue with pa := s.queue.pa.tail }
      replies := { s.replies with pa := ⟨.ok, .nothing⟩ :: s.replies.pa } }

/-- 44_counter_bank.md R163: after `p` increments and `q` decrements a cell that was 0 holds
`wrap32(p − q)`, "in any order and with any interleaving" with the instructions of all ports. -/
def Obligations.CellHoldsNetCount : Prop :=
  ∀ (is : List Instr) (s t : State) (ch : Channel), s.faulted .PA = false → s.cb[ch.val] = 0#32 →
    execAll is s = .next t →
    t.cb[ch.val] = BitVec.ofInt 32 ((is.count (.cbInc ch) : Int) - (is.count (.cbDec ch) : Int))

/-- 20_memory.md R41, 10_state.md R12: "Every write to a cell comes from port PA". -/
def Obligations.OnlyPortAWritesCells : Prop :=
  ∀ (i : Instr) (s t : State), i.port ≠ .PA → exec i s = .next t → t.cb = s.cb

/-! ## Port PB: the read side of the counter bank -/

/-- 44_counter_bank.md R166: `CB.RD ch` returns the cell and writes no state. -/
def Obligations.CbRdReturnsCell : Prop :=
  ∀ (ch : Channel) (s : State), s.faulted .PB = false →
    exec (.cbRd ch) s = .next { s with
      queue := { s.queue with pb := s.queue.pb.tail }
      replies := { s.replies with pb := ⟨.ok, .cell s.cb[ch.val]⟩ :: s.replies.pb } }

/-- 44_counter_bank.md R168: the begin step. -/
def Obligations.SnapBeginStep : Prop :=
  ∀ s : State, s.faulted .PB = false → s.snapActive = false →
    exec .cbSnap s = .next { s with snapActive := true, snapTodo := Vector.replicate 8 true }

/-- 44_counter_bank.md R169: the cell-read step reads one cell of those left, and only that. -/
def Obligations.SnapReadStep : Prop :=
  ∀ s : State, s.faulted .PB = false → s.snapActive = true → (∃ j : Channel, s.snapTodo[j.val] = true) →
    ∃ i : Channel, s.snapTodo[i.val] = true ∧ ∃ c d,
      exec .cbSnap s = .next { s with
        snapVal := s.snapVal.set i.val s.cb[i.val]
        snapTodo := s.snapTodo.set i.val false
        choices := c
        drawn := d }

/-- 44_counter_bank.md R170: "any member of `snap_todo` may be taken". -/
def Obligations.SnapReadOrderIsOpen : Prop :=
  ∀ (s : State) (i : Channel), s.faulted .PB = false → s.snapActive = true → s.snapTodo[i.val] = true →
    ∃ c c', exec .cbSnap { s with choices := c } = .next { s with
      snapVal := s.snapVal.set i.val s.cb[i.val]
      snapTodo := s.snapTodo.set i.val false
      choices := c' }

/-- 44_counter_bank.md R171: the return step. -/
def Obligations.SnapReturnStep : Prop :=
  ∀ s : State, s.faulted .PB = false → s.snapActive = true →
    (∀ j : Channel, s.snapTodo[j.val] = false) →
    exec .cbSnap s = .next { s with
      snapActive := false
      queue := { s.queue with pb := s.queue.pb.tail }
      replies := { s.replies with pb := ⟨.ok, .cells s.snapVal⟩ :: s.replies.pb } }

/-- 44_counter_bank.md R167, R172 (d): the ten steps of a `CB.SNAP` with nothing between them return the bank. -/
def Obligations.QuietSnapshotIsBank : Prop :=
  ∀ s : State, s.faulted .PB = false → s.snapActive = false →
    ∃ t, execAll (List.replicate 10 .cbSnap) s = .next t ∧
      t.replies.pb = ⟨.ok, .cells s.cb⟩ :: s.replies.pb ∧ t.cb = s.cb ∧ t.snapActive = false ∧
      t.queue.pb = s.queue.pb.tail

/-- 44_counter_bank.md R172 (a), R173: in every run of the whole machine, each value a snapshot returns is one
its cell held at some instant between the begin step and the return step. -/
def Obligations.SnapshotValuesWereHeld : Prop :=
  ∀ (run : Nat → State) (n : Nat) (t : State) (v : Vector Word 8),
    (run 0).snapActive = false →
    (∀ k, k < n → step (run k) = .next (run (k + 1))) →
    (∀ k, 0 < k → k ≤ n → (run k).snapActive = true) →
    step (run n) = .next t →
    t.replies.pb = ⟨.ok, .cells v⟩ :: (run n).replies.pb →
    ∀ i : Channel, ∃ k, k ≤ n ∧ v[i.val] = (run k).cb[i.val]

/-! ## Ports, faults and encodings -/

/-- 20_memory.md R46, its write half: no codec operation changes the counter bank, and no counter-bank operation
changes the detector. -/
def Obligations.CodecAndBankLeaveEachOtherUnchanged : Prop :=
  ∀ (i : Instr) (s t : State), exec i s = .next t →
    (i.port = .PC → SameBank s t) ∧ (i.port ≠ .PC → SameDetector s t)

/-- 60_exceptions.md R190 (d), 20_memory.md R40: an operation leaves the other ports as they were. -/
def Obligations.OtherPortsUnaffected : Prop :=
  ∀ (i : Instr) (s t : State), exec i s = .next t → SamePortsBut i.port s t ∧ t.resetsDue = s.resetsDue

/-- 60_exceptions.md R191: every operation issued at a faulted port, legal or not, returns
`(ERR_FAULTED, none)` and changes no state. -/
def Obligations.FaultedPortPerformsNothing : Prop :=
  ∀ (s u : State) (p : Port) (r : Request) (rest : List Request),
    s.nextAgent = some (.port p, u) → portGet u.queue p = r :: rest → (portGet u.pfault p).set = true →
    step s = .next { u with
      queue := portSet u.queue p rest
      replies := portSet u.replies p (⟨.errFaulted, .nothing⟩ :: portGet u.replies p) }

/-- 60_exceptions.md R189, R190: an illegal command word sets the port's fault with code `0x8`, returns
`(ERR_ILLEGAL, none)` and changes nothing else. -/
def Obligations.IllegalWordFaultsItsPort : Prop :=
  ∀ (s u : State) (p : Port) (r : Request) (rest : List Request),
    s.nextAgent = some (.port p, u) → portGet u.queue p = r :: rest → (portGet u.pfault p).set = false →
    decode p r = .error .illegalWord →
    step s = .next { u with
      pfault := portSet u.pfault p ⟨true, 0x8#4⟩
      queue := portSet u.queue p rest
      replies := portSet u.replies p (⟨.errIllegal, .nothing⟩ :: portGet u.replies p) }

/-- 60_exceptions.md R192: only hardware reset clears a fault; no step changes the code of a set one. -/
def Obligations.OnlyResetClearsFault : Prop :=
  ∀ (s t : State) (p : Port), step s = .next t → (portGet s.pfault p).set = true →
    portGet t.pfault p = portGet s.pfault p ∨ ∃ u, s.nextAgent = some (.reset, u)

/-- 30_encoding.md R61: the legal command words of each port are exactly PA 16, PB 9, PC 263. -/
def Obligations.LegalWordsOfEachPort : Prop :=
  ∀ (word : Half) (din : List Byte),
    (decodes .PA (.cmd word din) = true ↔
      (0x1000 ≤ word.toNat ∧ word.toNat ≤ 0x1007) ∨ (0x1100 ≤ word.toNat ∧ word.toNat ≤ 0x1107)) ∧
    (decodes .PB (.cmd word din) = true ↔
      (0x2000 ≤ word.toNat ∧ word.toNat ≤ 0x2007) ∨ word.toNat = 0x2100) ∧
    (decodes .PC (.cmd word din) = true ↔
      word.toNat ∈ [0x3000, 0x3100, 0x3200, 0x3300, 0x3400, 0x3500, 0x3600] ∨
        (0x3700 ≤ word.toNat ∧ word.toNat ≤ 0x37FF))

/-- 30_encoding.md R57 to R59, 42_frame.md R127, R128: every instruction decodes from its encoding, at its
own port, with every operand at every value. -/
def Obligations.DecodeOfEncode : Prop := ∀ i : Instr, decode i.port (encode i) = .ok i

/-- 30_encoding.md R56 to R59: a command word that decodes is the word of the instruction it decodes to. -/
def Obligations.EncodeOfDecode : Prop :=
  ∀ (p : Port) (word : Half) (din : List Byte) (i : Instr), decode p (.cmd word din) = .ok i →
    i.port = p ∧ ∃ d, encode i = .cmd word d ∧ (takesDin p word = true → d = din)

/-- 30_encoding.md R61: "every operation is illegal at every port other than its own". -/
def Obligations.WrongPortIsIllegal : Prop :=
  ∀ (i : Instr) (p : Port), p ≠ i.port → decode p (encode i) = .error .illegalWord

/-- 42_frame.md R128: "`SER_REF(DE_REF(d)) = d` whenever `DE_REF(d)` is not `none`". -/
def Obligations.SerRefOfDeRef : Prop :=
  ∀ (d : List Byte) (packet : Packet), deRef d = some packet → serRef packet = d

/-- A few words written out from 30_encoding.md R57 to R61 and R65. That an 8-bit row of the table, a packet tag of
42_frame.md R127, is read as `ENCODE P` (log 13) of the image whose other bits are zero (log 22) is the model's
choice, and the last two clauses rest on it. -/
def Obligations.SampleWordsDecode : Prop :=
  decodeTableWord 16 0x1003 = some (.cbInc 3) ∧ decodeTableWord 16 0x1107 = some (.cbDec 7) ∧
  decodeTableWord 16 0x2003 = some (.cbRd 3) ∧ decodeTableWord 16 0x2100 = some .cbSnap ∧
  decodeTableWord 16 0x3300 = some (.encFrame []) ∧ decodeTableWord 16 0x37A5 = some (.syncPush 0xA5#8) ∧
  decodeTableWord 16 0x1008 = none ∧ decodeTableWord 16 0x3800 = none ∧
  decodeTableWord 8 0x01 = some (.pktReset 0#8) ∧ decodeTableWord 8 0x04 = none

/-! ## The checksum -/

/-- 40_checksum.md R84: `CRC16` of at most 64 bytes; a longer input is refused with no effect. -/
def Obligations.Crc16Answers : Prop :=
  ∀ (din : List Byte) (s : State), s.faulted .PC = false →
    exec (.crc16 din) s = .next { s with
      queue := { s.queue with pc := s.queue.pc.tail }
      replies := { s.replies with pc :=
        (if din.length ≤ 64 then ⟨.ok, .checksum (crc16 din)⟩ else ⟨.errOperand, .nothing⟩)
          :: s.replies.pc } }

/-- 40_checksum.md R83 (b): "Leading zero bytes do not change the value". -/
def Obligations.CrcIgnoresLeadingZeros : Prop :=
  ∀ (n : Nat) (s : List Byte), crc16 (List.replicate n 0x00#8 ++ s) = crc16 s

/-- 40_checksum.md R83 (e): appending the checksum low byte first gives the residue 0. -/
def Obligations.CrcResidueIsZero : Prop :=
  ∀ s : List Byte,
    crc16 (s ++ [(crc16 s).extractLsb' 0 8, (crc16 s).extractLsb' 8 8]) = 0x0000#16

/-- 40_checksum.md R83 (f): two strings of equal length that differ in exactly one bit have different checksums.
40_checksum.md R87, 42_frame.md R125 "Checksum sensitivity": so one flipped bit in the payload or the stored
checksum of a valid frame is rejected as `REJ_CRC`, and one in the header as `REJ_SYNC`. (A flip in the length byte
is `LengthGuard`'s and `ChecksumGuard`'s, one in the padding `PaddingNeverMatters`'s.) -/
def Obligations.CrcDetectsSingleBitFlip : Prop :=
  (∀ (a c : List Byte) (b : Byte) (k : Nat), k < 8 →
    crc16 (a ++ (b ^^^ BitVec.twoPow 8 k) :: c) ≠ crc16 (a ++ b :: c)) ∧
  (∀ (cfg : Cfg) (F d : List Byte) (i k : Nat), cfg.Lawful → decodeFrame cfg F = .accepted d → k < 8 →
    let G := F.set i (F.getD i 0#8 ^^^ BitVec.twoPow 8 k)
    (i < 4 → decodeFrame cfg G = .rejected .rejSync ∧ decodePacket cfg G = .rejected .rejSync) ∧
    ((5 ≤ i ∧ i < 5 + (F.getD 4 0#8).toNat) ∨ i = 62 ∨ i = 63 →
      decodeFrame cfg G = .rejected .rejCrc ∧ decodePacket cfg G = .rejected .rejCrc))

/-! ## Byte stuffing -/

/-- 41_cobs.md R93: length, content and non-emptiness of `CobsEnc(d)`. -/
def Obligations.CobsEncLengthAndContent : Prop :=
  ∀ d : List Byte, d.length ≤ 253 →
    (cobsEnc d).length = d.length + 1 ∧ (∀ b ∈ cobsEnc d, b ≠ 0x00#8) ∧ cobsEnc d ≠ []

/-- 41_cobs.md R101 (a): `CobsDec(CobsEnc(d)) = d`. -/
def Obligations.CobsRoundTrip : Prop :=
  ∀ d : List Byte, d.length ≤ 253 → cobsDec (cobsEnc d) = some d

/-- 41_cobs.md R101 (d): the decoder accepts only the encoder's images. -/
def Obligations.CobsDecAcceptsOnlyImages : Prop :=
  ∀ s d : List Byte, s.length ≤ 57 → cobsDec s = some d → cobsEnc d = s

/-- 41_cobs.md R96: "a stream that contains a `0x00` anywhere is malformed", and so is the empty one. -/
def Obligations.CobsDecRefusesZero : Prop :=
  ∀ s : List Byte, (0x00#8 ∈ s → cobsDec s = none) ∧ (s = [] → cobsDec s = none)

/-- 41_cobs.md R101 (a), (e): unstuffing inverts stuffing under every configuration, and the lengths. -/
def Obligations.UnstuffOfStuff : Prop :=
  ∀ (cfg : Cfg) (d : List Byte), d.length ≤ 253 →
    unstuff cfg (stuff cfg d) = some d ∧ (stuff cfg d).length = d.length + 1 + cfg.dlm

/-- 41_cobs.md R99, 60_exceptions.md R188, R190: `COBS.ENC`, and its fault above `MAX_RAW`. -/
def Obligations.CobsEncAnswers : Prop :=
  ∀ (din : List Byte) (s : State), s.faulted .PC = false →
    exec (.cobsEnc din) s = .next (if din.length ≤ Config.cfg.maxRaw then
      { s with
        queue := { s.queue with pc := s.queue.pc.tail }
        replies := { s.replies with pc := ⟨.ok, .bytes (stuff Config.cfg din)⟩ :: s.replies.pc } }
    else
      { s with
        pfault := { s.pfault with pc := ⟨true, 0x7#4⟩ }
        queue := { s.queue with pc := s.queue.pc.tail }
        replies := { s.replies with pc := ⟨.errOverflow, .nothing⟩ :: s.replies.pc } })

/-- 41_cobs.md R100: `COBS.DEC`. -/
def Obligations.CobsDecAnswers : Prop :=
  ∀ (din : List Byte) (s : State), s.faulted .PC = false →
    exec (.cobsDec din) s = .next { s with
      queue := { s.queue with pc := s.queue.pc.tail }
      replies := { s.replies with pc :=
        (if din.length ≤ Config.cfg.maxCobsLen then
          match unstuff Config.cfg din with
          | some d => ⟨.ok, .bytes d⟩
          | none => ⟨.rejStuff, .nothing⟩
        else ⟨.errOperand, .nothing⟩) :: s.replies.pc } }

/-! ## The frame -/

/-- 30_encoding.md R50, R51, 42_frame.md R111, R113: the layout of an encoded frame, byte by byte. -/
def Obligations.EncodeFrameLayout : Prop :=
  ∀ (cfg : Cfg) (d : List Byte), cfg.Lawful → d.length ≤ cfg.maxRaw →
    let F := encodeFrame cfg d
    let L := d.length + 1 + cfg.dlm
    F.length = 64 ∧ F.take 4 = cfg.syncWord.toList ∧ (F.getD 4 0#8).toNat = L ∧
    1 ≤ L ∧ L ≤ cfg.maxCobsLen ∧ (F.drop 5).take L = stuff cfg d ∧
    (∀ i, 5 + L ≤ i → i < 62 → F.getD i 0xFF#8 = 0x00#8) ∧
    F.getD 62 0#8 = (crc16 (F.take (5 + L))).extractLsb' 8 8 ∧
    F.getD 63 0#8 = (crc16 (F.take (5 + L))).extractLsb' 0 8

/-- 42_frame.md R112, R114, 60_exceptions.md R188: `ENC.FRAME`, and its fault above `MAX_RAW`. -/
def Obligations.EncFrameAnswers : Prop :=
  ∀ (din : List Byte) (s : State), s.faulted .PC = false →
    exec (.encFrame din) s = .next (if din.length ≤ Config.cfg.maxRaw then
      { s with
        queue := { s.queue with pc := s.queue.pc.tail }
        replies := { s.replies with pc := ⟨.ok, .bytes (encodeFrame Config.cfg din)⟩ :: s.replies.pc } }
    else
      { s with
        pfault := { s.pfault with pc := ⟨true, 0x7#4⟩ }
        queue := { s.queue with pc := s.queue.pc.tail }
        replies := { s.replies with pc := ⟨.errOverflow, .nothing⟩ :: s.replies.pc } })

/-- 42_frame.md R116, 60_exceptions.md R183: `DEC.FRAME` answers `DecodeFrame(din)` and changes nothing else. -/
def Obligations.DecFrameAnswers : Prop :=
  ∀ (din : List Byte) (s : State), s.faulted .PC = false →
    exec (.decFrame din) s = .next { s with
      queue := { s.queue with pc := s.queue.pc.tail }
      replies := { s.replies with pc :=
        (match decodeFrame Config.cfg din with
          | .accepted d => ⟨.ok, .bytes d⟩
          | .rejected why => ⟨why, .nothing⟩) :: s.replies.pc } }

/-- 42_frame.md R117: any input whose length is not 64 is rejected, whatever it holds. -/
def Obligations.SizeGuard : Prop :=
  ∀ (cfg : Cfg) (b : List Byte), b.length ≠ 64 →
    decodeFrame cfg b = .rejected .rejSize ∧ decodePacket cfg b = .rejected .rejSize

/-- 42_frame.md R118: one wrong byte of the sync header rejects, "regardless of an otherwise-valid frame". -/
def Obligations.HeaderGuard : Prop :=
  ∀ (cfg : Cfg) (b : List Byte), b.length = 64 →
    (∃ i : Fin 4, b.getD i.val 0#8 ≠ cfg.syncWord[i.val]) →
    decodeFrame cfg b = .rejected .rejSync ∧ decodePacket cfg b = .rejected .rejSync

/-- 42_frame.md R119: a length byte of 0 or above `MAX_COBS_LEN` rejects. -/
def Obligations.LengthGuard : Prop :=
  ∀ (cfg : Cfg) (b : List Byte), b.length = 64 → (∀ i : Fin 4, b.getD i.val 0#8 = cfg.syncWord[i.val]) →
    ((b.getD 4 0#8).toNat = 0 ∨ (b.getD 4 0#8).toNat > cfg.maxCobsLen) →
    decodeFrame cfg b = .rejected .rejLen ∧ decodePacket cfg b = .rejected .rejLen

/-- 42_frame.md R120, 40_checksum.md R86: a recomputed checksum that is not the stored one rejects. -/
def Obligations.ChecksumGuard : Prop :=
  ∀ (cfg : Cfg) (b : List Byte), b.length = 64 → (∀ i : Fin 4, b.getD i.val 0#8 = cfg.syncWord[i.val]) →
    1 ≤ (b.getD 4 0#8).toNat → (b.getD 4 0#8).toNat ≤ cfg.maxCobsLen →
    (crc16 (b.take (5 + (b.getD 4 0#8).toNat))).toNat ≠ (b.getD 62 0#8).toNat * 256 + (b.getD 63 0#8).toNat →
    decodeFrame cfg b = .rejected .rejCrc ∧ decodePacket cfg b = .rejected .rejCrc

/-- 42_frame.md R115, R121, R129: after the first four checks the payload decides: a malformed one is
`REJ_STUFF`; otherwise it is the answer, but for a packet decode it must parse, or it is `REJ_PARSE`. -/
def Obligations.PayloadDecides : Prop :=
  ∀ (cfg : Cfg) (b : List Byte), b.length = 64 → (∀ i : Fin 4, b.getD i.val 0#8 = cfg.syncWord[i.val]) →
    1 ≤ (b.getD 4 0#8).toNat → (b.getD 4 0#8).toNat ≤ cfg.maxCobsLen →
    (crc16 (b.take (5 + (b.getD 4 0#8).toNat))).toNat = (b.getD 62 0#8).toNat * 256 + (b.getD 63 0#8).toNat →
    match unstuff cfg ((b.drop 5).take (b.getD 4 0#8).toNat) with
    | none => decodeFrame cfg b = .rejected .rejStuff ∧ decodePacket cfg b = .rejected .rejStuff
    | some d => decodeFrame cfg b = .accepted d ∧
        decodePacket cfg b = if cfg.de d = none then .rejected .rejParse else .accepted d

/-- 42_frame.md R124: a frame decodes to the payload it was encoded from. -/
def Obligations.FrameRoundTrip : Prop :=
  ∀ (cfg : Cfg) (d : List Byte), cfg.Lawful → d.length ≤ cfg.maxRaw →
    decodeFrame cfg (encodeFrame cfg d) = .accepted d

/-- 42_frame.md R124, converse: an accepted frame agrees with the encoding of its payload on every byte
except the padding. -/
def Obligations.AcceptedFrameIsCanonical : Prop :=
  ∀ (cfg : Cfg) (b d : List Byte), cfg.Lawful → decodeFrame cfg b = .accepted d →
    ∀ i, i < 64 → ¬ (5 + (b.getD 4 0#8).toNat ≤ i ∧ i < 62) →
      b.getD i 0#8 = (encodeFrame cfg d).getD i 0#8

/-- 30_encoding.md R62: "two frames that differ only in padding decode alike". -/
def Obligations.PaddingNeverMatters : Prop :=
  ∀ (cfg : Cfg) (b c : List Byte), cfg.Lawful → b.length = 64 → c.length = 64 →
    (∀ i, i < 64 → ¬ (5 + (b.getD 4 0#8).toNat ≤ i ∧ i < 62) → b.getD i 0#8 = c.getD i 0#8) →
    decodeFrame cfg b = decodeFrame cfg c ∧ decodePacket cfg b = decodePacket cfg c

/-! ## The packet layer -/

/-- 42_frame.md R130: `ENC.PKT`, the parse test before the length test. -/
def Obligations.EncPktAnswers : Prop :=
  ∀ (din : List Byte) (s : State), s.faulted .PC = false →
    exec (.encPkt din) s = .next (
      if Config.cfg.de din = none then
        { s with
          queue := { s.queue with pc := s.queue.pc.tail }
          replies := { s.replies with pc := ⟨.errOperand, .nothing⟩ :: s.replies.pc } }
      else if din.length ≤ Config.cfg.maxRaw then
        { s with
          queue := { s.queue with pc := s.queue.pc.tail }
          replies := { s.replies with pc := ⟨.ok, .bytes (encodeFrame Config.cfg din)⟩ :: s.replies.pc } }
      else
        { s with
          pfault := { s.pfault with pc := ⟨true, 0x7#4⟩ }
          queue := { s.queue with pc := s.queue.pc.tail }
          replies := { s.replies with pc := ⟨.errOverflow, .nothing⟩ :: s.replies.pc } })

/-- 42_frame.md R131: `DEC.PKT`. -/
def Obligations.DecPktAnswers : Prop :=
  ∀ (din : List Byte) (s : State), s.faulted .PC = false →
    exec (.decPkt din) s = .next { s with
      queue := { s.queue with pc := s.queue.pc.tail }
      replies := { s.replies with pc :=
        (match decodePacket Config.cfg din with
          | .accepted d => ⟨.ok, .bytes d⟩
          | .rejected why => ⟨why, .nothing⟩) :: s.replies.pc } }

/-- 42_frame.md R132: for every packet, `ENC.PKT` of its image returns a 64-byte frame, and `DEC.PKT` of that
frame returns the image, whose parse is the packet. -/
def Obligations.PacketRoundTrip : Prop :=
  ∀ (packet : Packet) (s : State), s.faulted .PC = false →
    ∃ F t u, exec (.encPkt (Config.cfg.ser packet)) s = .next t ∧
      t.replies.pc = ⟨.ok, .bytes F⟩ :: s.replies.pc ∧ F.length = 64 ∧
      exec (.decPkt F) t = .next u ∧
      u.replies.pc = ⟨.ok, .bytes (Config.cfg.ser packet)⟩ :: t.replies.pc ∧
      Config.cfg.de (Config.cfg.ser packet) = some packet

/-- 30_encoding.md R66, 42_frame.md R130, R132: each packet variant (`pktSensorData`, `pktReset`, `pktPing`,
`pktPong`: `Instr.ofPacket` of the four), handed over as `ENCODE P`, returns the frame of its image and changes
nothing else. That the four PKT_TAG rows are read as `ENCODE P` is the model's choice (log 13). -/
def Obligations.PacketVariantsEncode : Prop :=
  ∀ (packet : Packet) (s : State), s.faulted .PC = false →
    exec (Instr.ofPacket packet) s = .next { s with
      queue := { s.queue with pc := s.queue.pc.tail }
      replies := { s.replies with pc :=
        ⟨.ok, .bytes (encodeFrame Config.cfg (Config.cfg.ser packet))⟩ :: s.replies.pc } }

/-! ## The sync detector -/

/-- 43_sync.md R142, R143, R144: a push in `HUNT`. `w` and `n` are the window and its fill after the byte; a
full window equal to the header starts a candidate. -/
def Obligations.SyncPushHunts : Prop :=
  ∀ (b : Byte) (s : State), s.faulted .PC = false → s.sdState = .hunt →
    ∃ (w : Vector Byte 4) (n : Fin 5),
      (if s.sdFill.val < 4 then
        n.val = s.sdFill.val + 1 ∧
          (∀ j : Fin 4, w[j.val] = if j.val = s.sdFill.val then b else s.sdWin[j.val])
      else n = s.sdFill ∧ w = #v[s.sdWin[1], s.sdWin[2], s.sdWin[3], b]) ∧
      exec (.syncPush b) s = .next (
        if n.val = 4 ∧ w = Config.cfg.syncWord then
          { s with
            sdWin := w
            sdFill := 0
            sdState := .collect
            rxCnt := 4
            rxBuf := Vector.ofFn fun j =>
              if h : j.val < 4 then Config.cfg.syncWord[j.val] else s.rxBuf[j.val]
            queue := { s.queue with pc := s.queue.pc.tail }
            replies := { s.replies with pc := ⟨.pending, .nothing⟩ :: s.replies.pc } }
        else
          { s with
            sdWin := w
            sdFill := n
            queue := { s.queue with pc := s.queue.pc.tail }
            replies := { s.replies with pc := ⟨.pending, .nothing⟩ :: s.replies.pc } })

/-- 43_sync.md R142, R145: before the 64th byte, a push in `COLLECT` stores the byte, whatever its value. -/
def Obligations.SyncPushCollects : Prop :=
  ∀ (b : Byte) (s : State) (n : Fin 65), s.faulted .PC = false → s.sdState = .collect →
    n.val = s.rxCnt.val + 1 → n.val < 64 →
    exec (.syncPush b) s = .next { s with
      rxBuf := Vector.ofFn fun j => if j.val = s.rxCnt.val then b else s.rxBuf[j.val]
      rxCnt := n
      queue := { s.queue with pc := s.queue.pc.tail }
      replies := { s.replies with pc := ⟨.pending, .nothing⟩ :: s.replies.pc } }

/-- 43_sync.md R142, R146: the 64th byte completes the candidate, which is decoded at once with all six
checks; the detector returns to `HUNT` with an empty window, accepted or not. In `COLLECT` with `rx_cnt = 64`,
where no run gets (R147 (b)), `rx_buf[rx_cnt]` names no byte and the model stops (its choice, log 12). -/
def Obligations.SyncPushCompletes : Prop :=
  ∀ (b : Byte) (s : State), s.faulted .PC = false → s.sdState = .collect →
    (s.rxCnt.val = 63 → exec (.syncPush b) s = .next { s with
      sdState := .hunt
      sdFill := 0
      rxCnt := 0
      rxBuf := s.rxBuf.set 63 b
      queue := { s.queue with pc := s.queue.pc.tail }
      replies := { s.replies with pc :=
        (match decodePacket Config.cfg (s.rxBuf.toList.take 63 ++ [b]) with
          | .accepted d => ⟨.ok, .bytes d⟩
          | .rejected why => ⟨why, .nothing⟩) :: s.replies.pc } }) ∧
    (s.rxCnt.val = 64 → exec (.syncPush b) s = .fault .rxIndexOutOfRange)

/-- 43_sync.md R142: "`REJ_SIZE` and `REJ_SYNC` cannot be returned". -/
def Obligations.SyncNeverRejectsSizeOrSync : Prop :=
  ∀ (b : Byte) (s t : State) (r : Reply), s.faulted .PC = false → DetectorOk Config.cfg s →
    exec (.syncPush b) s = .next t → t.replies.pc = r :: s.replies.pc →
    r.status ∈ [.pending, .ok, .rejLen, .rejCrc, .rejStuff, .rejParse]

/-- 43_sync.md R148: from `HUNT` with an empty window, the 64 bytes of a packet's frame return `PENDING` 63
times and then the packet's image, and leave the detector in `HUNT` with an empty window. -/
def Obligations.AlignedFrameIsDelivered : Prop :=
  ∀ (packet : Packet) (s : State), s.faulted .PC = false → s.sdState = .hunt → s.sdFill.val = 0 →
    ∃ t, execAll ((encodeFrame Config.cfg (Config.cfg.ser packet)).map .syncPush) s = .next t ∧
      t.replies.pc = ⟨.ok, .bytes (Config.cfg.ser packet)⟩ ::
        (List.replicate 63 ⟨.pending, .nothing⟩ ++ s.replies.pc) ∧
      t.sdState = .hunt ∧ t.sdFill.val = 0 ∧ t.rxCnt.val = 0

/-! ## The machine -/

/-- 20_memory.md R38, 30_encoding.md R55: a port's step runs the instruction its first request decodes to.
Choosing which agent moves, a port or hardware reset, whatever the port's first request is, changes only the
record of the choices. -/
def Obligations.StepRunsDecodedInstr : Prop :=
  (∀ (s u : State) (a : Agent), s.nextAgent = some (a, u) →
    ∃ c d, u = { s with choices := c, drawn := d }) ∧
  (∀ (s u : State) (p : Port) (r : Request) (rest : List Request) (i : Instr),
    s.nextAgent = some (.port p, u) → portGet u.queue p = r :: rest → decode p r = .ok i →
    step s = exec i u)

/-- 20_memory.md R38, R40, 60_exceptions.md R197, 70_reset_and_hazards.md R215: a port with an operation to
perform may be the next to take a step, whatever the other ports are doing and whether or not a snapshot is in
flight; so may hardware reset when an assertion of it is due (the count of those due is the model's, log 8);
no other agent takes a step, and where any has one to take, one is taken. -/
def Obligations.AnyEnabledAgentMayMove : Prop :=
  ∀ s : State,
    (∀ p : Port, portGet s.queue p ≠ [] →
      ∃ c c', ({ s with choices := c } : State).nextAgent = some (.port p, { s with choices := c' })) ∧
    (s.resetsDue ≠ 0 →
      ∃ c c', ({ s with choices := c } : State).nextAgent = some (.reset, { s with choices := c' })) ∧
    (∀ (p : Port) (u : State), s.nextAgent = some (.port p, u) → portGet s.queue p ≠ []) ∧
    (∀ u : State, s.nextAgent = some (.reset, u) → s.resetsDue ≠ 0) ∧
    (s.nextAgent = none → (∀ p : Port, portGet s.queue p = []) ∧ s.resetsDue = 0)

/-- 10_state.md R20: the values the spec gives for reset. -/
def Obligations.ResetValues : Prop :=
  (∀ i : Channel, State.reset.cb[i.val] = 0#32) ∧ State.reset.snapActive = false ∧
  (∀ i : Channel, State.reset.snapTodo[i.val] = false) ∧ State.reset.sdState = .hunt ∧
  State.reset.sdFill.val = 0 ∧ State.reset.rxCnt.val = 0 ∧
  (∀ p : Port, portGet State.reset.pfault p = ⟨false, 0#4⟩)

/-- 70_reset_and_hazards.md R210: hardware reset, at any moment, puts the spec's state at its reset values; an
operation in progress is abandoned with no result. That the other operations of the lists stay is the model's
choice (log 8). -/
def Obligations.HardwareResetStep : Prop :=
  ∀ s u : State, s.nextAgent = some (.reset, u) →
    ∃ t, step s = .next t ∧
      (∀ i : Channel, t.cb[i.val] = 0#32) ∧ t.snapActive = false ∧
      (∀ i : Channel, t.snapTodo[i.val] = false) ∧ t.sdState = .hunt ∧ t.sdFill.val = 0 ∧ t.rxCnt.val = 0 ∧
      (∀ p : Port, portGet t.pfault p = ⟨false, 0#4⟩) ∧ t.replies = u.replies ∧
      t.queue.pa = u.queue.pa ∧ t.queue.pc = u.queue.pc ∧
      t.queue.pb = (if u.snapActive then u.queue.pb.tail else u.queue.pb)

/-- The reset state meets the invariant. -/
def Obligations.ResetMeetsInvariant : Prop := Inv State.reset

/-- 43_sync.md R147 (a) to (c), 60_exceptions.md R190, R191, 44_counter_bank.md R171: every step keeps the
invariant. -/
def Obligations.StepKeepsInvariant : Prop :=
  ∀ s t : State, Inv s → step s = .next t → Inv t

/-- 10_state.md R22, 43_sync.md R147: from a state that meets the invariant no step stops the machine. -/
def Obligations.StepNeverStops : Prop := ∀ s : State, Inv s → ∃ t, step s = .next t
end

