-- ==== Sys2Proof/Laws/State.lean ====
section
/-! SUPPORT. One lemma per field per update of the state, each true by `rfl`, so that no proof unfolds a record
update. -/

namespace Sys2Proof.Machine

/-! ## Returning a result (30_encoding.md R55). -/

@[simp] theorem answer_cb (s : State) (p : Port) (r : Reply) :
    (s.answer p r).cb = s.cb := rfl
@[simp] theorem answer_snapActive (s : State) (p : Port) (r : Reply) :
    (s.answer p r).snapActive = s.snapActive := rfl
@[simp] theorem answer_snapTodo (s : State) (p : Port) (r : Reply) :
    (s.answer p r).snapTodo = s.snapTodo := rfl
@[simp] theorem answer_snapVal (s : State) (p : Port) (r : Reply) :
    (s.answer p r).snapVal = s.snapVal := rfl
@[simp] theorem answer_sdState (s : State) (p : Port) (r : Reply) :
    (s.answer p r).sdState = s.sdState := rfl
@[simp] theorem answer_sdWin (s : State) (p : Port) (r : Reply) :
    (s.answer p r).sdWin = s.sdWin := rfl
@[simp] theorem answer_sdFill (s : State) (p : Port) (r : Reply) :
    (s.answer p r).sdFill = s.sdFill := rfl
@[simp] theorem answer_rxBuf (s : State) (p : Port) (r : Reply) :
    (s.answer p r).rxBuf = s.rxBuf := rfl
@[simp] theorem answer_rxCnt (s : State) (p : Port) (r : Reply) :
    (s.answer p r).rxCnt = s.rxCnt := rfl
@[simp] theorem answer_pfault (s : State) (p : Port) (r : Reply) :
    (s.answer p r).pfault = s.pfault := rfl
@[simp] theorem answer_queue (s : State) (p : Port) (r : Reply) :
    (s.answer p r).queue = portSet s.queue p (portGet s.queue p).tail := rfl
@[simp] theorem answer_replies (s : State) (p : Port) (r : Reply) :
    (s.answer p r).replies = portSet s.replies p (r :: portGet s.replies p) := rfl
@[simp] theorem answer_resetsDue (s : State) (p : Port) (r : Reply) :
    (s.answer p r).resetsDue = s.resetsDue := rfl
@[simp] theorem answer_choices (s : State) (p : Port) (r : Reply) :
    (s.answer p r).choices = s.choices := rfl
@[simp] theorem answer_drawn (s : State) (p : Port) (r : Reply) :
    (s.answer p r).drawn = s.drawn := rfl

/-! ## `raise Fault(p, code)` (60_exceptions.md R190). -/

@[simp] theorem raiseFault_cb (s : State) (p : Port) (st : Status) :
    (s.raiseFault p st).cb = s.cb := rfl
@[simp] theorem raiseFault_snapActive (s : State) (p : Port) (st : Status) :
    (s.raiseFault p st).snapActive = s.snapActive := rfl
@[simp] theorem raiseFault_snapTodo (s : State) (p : Port) (st : Status) :
    (s.raiseFault p st).snapTodo = s.snapTodo := rfl
@[simp] theorem raiseFault_snapVal (s : State) (p : Port) (st : Status) :
    (s.raiseFault p st).snapVal = s.snapVal := rfl
@[simp] theorem raiseFault_sdState (s : State) (p : Port) (st : Status) :
    (s.raiseFault p st).sdState = s.sdState := rfl
@[simp] theorem raiseFault_sdWin (s : State) (p : Port) (st : Status) :
    (s.raiseFault p st).sdWin = s.sdWin := rfl
@[simp] theorem raiseFault_sdFill (s : State) (p : Port) (st : Status) :
    (s.raiseFault p st).sdFill = s.sdFill := rfl
@[simp] theorem raiseFault_rxBuf (s : State) (p : Port) (st : Status) :
    (s.raiseFault p st).rxBuf = s.rxBuf := rfl
@[simp] theorem raiseFault_rxCnt (s : State) (p : Port) (st : Status) :
    (s.raiseFault p st).rxCnt = s.rxCnt := rfl
@[simp] theorem raiseFault_pfault (s : State) (p : Port) (st : Status) :
    (s.raiseFault p st).pfault = portSet s.pfault p ⟨true, st.code⟩ := rfl
@[simp] theorem raiseFault_queue (s : State) (p : Port) (st : Status) :
    (s.raiseFault p st).queue = portSet s.queue p (portGet s.queue p).tail := rfl
@[simp] theorem raiseFault_replies (s : State) (p : Port) (st : Status) :
    (s.raiseFault p st).replies = portSet s.replies p (Reply.only st :: portGet s.replies p) := rfl
@[simp] theorem raiseFault_resetsDue (s : State) (p : Port) (st : Status) :
    (s.raiseFault p st).resetsDue = s.resetsDue := rfl
@[simp] theorem raiseFault_choices (s : State) (p : Port) (st : Status) :
    (s.raiseFault p st).choices = s.choices := rfl
@[simp] theorem raiseFault_drawn (s : State) (p : Port) (st : Status) :
    (s.raiseFault p st).drawn = s.drawn := rfl

/-! ## `CellRMW(i, f)` (20_memory.md R35). -/

@[simp] theorem cellRMW_cb (s : State) (i : Channel) (f : Word → Word) :
    (s.cellRMW i f).cb = s.cb.set i.val (f s.cb[i.val]) := rfl
@[simp] theorem cellRMW_snapActive (s : State) (i : Channel) (f : Word → Word) :
    (s.cellRMW i f).snapActive = s.snapActive := rfl
@[simp] theorem cellRMW_snapTodo (s : State) (i : Channel) (f : Word → Word) :
    (s.cellRMW i f).snapTodo = s.snapTodo := rfl
@[simp] theorem cellRMW_snapVal (s : State) (i : Channel) (f : Word → Word) :
    (s.cellRMW i f).snapVal = s.snapVal := rfl
@[simp] theorem cellRMW_sdState (s : State) (i : Channel) (f : Word → Word) :
    (s.cellRMW i f).sdState = s.sdState := rfl
@[simp] theorem cellRMW_sdWin (s : State) (i : Channel) (f : Word → Word) :
    (s.cellRMW i f).sdWin = s.sdWin := rfl
@[simp] theorem cellRMW_sdFill (s : State) (i : Channel) (f : Word → Word) :
    (s.cellRMW i f).sdFill = s.sdFill := rfl
@[simp] theorem cellRMW_rxBuf (s : State) (i : Channel) (f : Word → Word) :
    (s.cellRMW i f).rxBuf = s.rxBuf := rfl
@[simp] theorem cellRMW_rxCnt (s : State) (i : Channel) (f : Word → Word) :
    (s.cellRMW i f).rxCnt = s.rxCnt := rfl
@[simp] theorem cellRMW_pfault (s : State) (i : Channel) (f : Word → Word) :
    (s.cellRMW i f).pfault = s.pfault := rfl
@[simp] theorem cellRMW_queue (s : State) (i : Channel) (f : Word → Word) :
    (s.cellRMW i f).queue = s.queue := rfl
@[simp] theorem cellRMW_replies (s : State) (i : Channel) (f : Word → Word) :
    (s.cellRMW i f).replies = s.replies := rfl
@[simp] theorem cellRMW_resetsDue (s : State) (i : Channel) (f : Word → Word) :
    (s.cellRMW i f).resetsDue = s.resetsDue := rfl
@[simp] theorem cellRMW_choices (s : State) (i : Channel) (f : Word → Word) :
    (s.cellRMW i f).choices = s.choices := rfl
@[simp] theorem cellRMW_drawn (s : State) (i : Channel) (f : Word → Word) :
    (s.cellRMW i f).drawn = s.drawn := rfl

/-! ## Begin step of `CB.SNAP` (44_counter_bank.md R168). -/

@[simp] theorem snapBegin_cb (s : State) :
    (s.snapBegin).cb = s.cb := rfl
@[simp] theorem snapBegin_snapActive (s : State) :
    (s.snapBegin).snapActive = true := rfl
@[simp] theorem snapBegin_snapTodo (s : State) :
    (s.snapBegin).snapTodo = Vector.replicate 8 true := rfl
@[simp] theorem snapBegin_snapVal (s : State) :
    (s.snapBegin).snapVal = s.snapVal := rfl
@[simp] theorem snapBegin_sdState (s : State) :
    (s.snapBegin).sdState = s.sdState := rfl
@[simp] theorem snapBegin_sdWin (s : State) :
    (s.snapBegin).sdWin = s.sdWin := rfl
@[simp] theorem snapBegin_sdFill (s : State) :
    (s.snapBegin).sdFill = s.sdFill := rfl
@[simp] theorem snapBegin_rxBuf (s : State) :
    (s.snapBegin).rxBuf = s.rxBuf := rfl
@[simp] theorem snapBegin_rxCnt (s : State) :
    (s.snapBegin).rxCnt = s.rxCnt := rfl
@[simp] theorem snapBegin_pfault (s : State) :
    (s.snapBegin).pfault = s.pfault := rfl
@[simp] theorem snapBegin_queue (s : State) :
    (s.snapBegin).queue = s.queue := rfl
@[simp] theorem snapBegin_replies (s : State) :
    (s.snapBegin).replies = s.replies := rfl
@[simp] theorem snapBegin_resetsDue (s : State) :
    (s.snapBegin).resetsDue = s.resetsDue := rfl
@[simp] theorem snapBegin_choices (s : State) :
    (s.snapBegin).choices = s.choices := rfl
@[simp] theorem snapBegin_drawn (s : State) :
    (s.snapBegin).drawn = s.drawn := rfl

/-! ## Cell-read step of `CB.SNAP` (44_counter_bank.md R169). -/

@[simp] theorem snapRead_cb (s : State) (i : Channel) :
    (s.snapRead i).cb = s.cb := rfl
@[simp] theorem snapRead_snapActive (s : State) (i : Channel) :
    (s.snapRead i).snapActive = s.snapActive := rfl
@[simp] theorem snapRead_snapTodo (s : State) (i : Channel) :
    (s.snapRead i).snapTodo = s.snapTodo.set i.val false := rfl
@[simp] theorem snapRead_snapVal (s : State) (i : Channel) :
    (s.snapRead i).snapVal = s.snapVal.set i.val (s.cellRead i) := rfl
@[simp] theorem snapRead_sdState (s : State) (i : Channel) :
    (s.snapRead i).sdState = s.sdState := rfl
@[simp] theorem snapRead_sdWin (s : State) (i : Channel) :
    (s.snapRead i).sdWin = s.sdWin := rfl
@[simp] theorem snapRead_sdFill (s : State) (i : Channel) :
    (s.snapRead i).sdFill = s.sdFill := rfl
@[simp] theorem snapRead_rxBuf (s : State) (i : Channel) :
    (s.snapRead i).rxBuf = s.rxBuf := rfl
@[simp] theorem snapRead_rxCnt (s : State) (i : Channel) :
    (s.snapRead i).rxCnt = s.rxCnt := rfl
@[simp] theorem snapRead_pfault (s : State) (i : Channel) :
    (s.snapRead i).pfault = s.pfault := rfl
@[simp] theorem snapRead_queue (s : State) (i : Channel) :
    (s.snapRead i).queue = s.queue := rfl
@[simp] theorem snapRead_replies (s : State) (i : Channel) :
    (s.snapRead i).replies = s.replies := rfl
@[simp] theorem snapRead_resetsDue (s : State) (i : Channel) :
    (s.snapRead i).resetsDue = s.resetsDue := rfl
@[simp] theorem snapRead_choices (s : State) (i : Channel) :
    (s.snapRead i).choices = s.choices := rfl
@[simp] theorem snapRead_drawn (s : State) (i : Channel) :
    (s.snapRead i).drawn = s.drawn := rfl

/-! ## Return step of `CB.SNAP` (44_counter_bank.md R171). -/

@[simp] theorem snapReturn_cb (s : State) :
    (s.snapReturn).cb = s.cb := rfl
@[simp] theorem snapReturn_snapActive (s : State) :
    (s.snapReturn).snapActive = false := rfl
@[simp] theorem snapReturn_snapTodo (s : State) :
    (s.snapReturn).snapTodo = s.snapTodo := rfl
@[simp] theorem snapReturn_snapVal (s : State) :
    (s.snapReturn).snapVal = s.snapVal := rfl
@[simp] theorem snapReturn_sdState (s : State) :
    (s.snapReturn).sdState = s.sdState := rfl
@[simp] theorem snapReturn_sdWin (s : State) :
    (s.snapReturn).sdWin = s.sdWin := rfl
@[simp] theorem snapReturn_sdFill (s : State) :
    (s.snapReturn).sdFill = s.sdFill := rfl
@[simp] theorem snapReturn_rxBuf (s : State) :
    (s.snapReturn).rxBuf = s.rxBuf := rfl
@[simp] theorem snapReturn_rxCnt (s : State) :
    (s.snapReturn).rxCnt = s.rxCnt := rfl
@[simp] theorem snapReturn_pfault (s : State) :
    (s.snapReturn).pfault = s.pfault := rfl
@[simp] theorem snapReturn_queue (s : State) :
    (s.snapReturn).queue = portSet s.queue .PB (portGet s.queue .PB).tail := rfl
@[simp] theorem snapReturn_replies (s : State) :
    (s.snapReturn).replies = portSet s.replies .PB (Reply.okWith (.cells s.snapVal) :: portGet s.replies .PB) := rfl
@[simp] theorem snapReturn_resetsDue (s : State) :
    (s.snapReturn).resetsDue = s.resetsDue := rfl
@[simp] theorem snapReturn_choices (s : State) :
    (s.snapReturn).choices = s.choices := rfl
@[simp] theorem snapReturn_drawn (s : State) :
    (s.snapReturn).drawn = s.drawn := rfl

/-! ## Completion of a candidate (43_sync.md R146). -/

@[simp] theorem detectorRestarts_cb (s : State) :
    (s.detectorRestarts).cb = s.cb := rfl
@[simp] theorem detectorRestarts_snapActive (s : State) :
    (s.detectorRestarts).snapActive = s.snapActive := rfl
@[simp] theorem detectorRestarts_snapTodo (s : State) :
    (s.detectorRestarts).snapTodo = s.snapTodo := rfl
@[simp] theorem detectorRestarts_snapVal (s : State) :
    (s.detectorRestarts).snapVal = s.snapVal := rfl
@[simp] theorem detectorRestarts_sdState (s : State) :
    (s.detectorRestarts).sdState = .hunt := rfl
@[simp] theorem detectorRestarts_sdWin (s : State) :
    (s.detectorRestarts).sdWin = s.sdWin := rfl
@[simp] theorem detectorRestarts_sdFill (s : State) :
    (s.detectorRestarts).sdFill = 0 := rfl
@[simp] theorem detectorRestarts_rxBuf (s : State) :
    (s.detectorRestarts).rxBuf = s.rxBuf := rfl
@[simp] theorem detectorRestarts_rxCnt (s : State) :
    (s.detectorRestarts).rxCnt = 0 := rfl
@[simp] theorem detectorRestarts_pfault (s : State) :
    (s.detectorRestarts).pfault = s.pfault := rfl
@[simp] theorem detectorRestarts_queue (s : State) :
    (s.detectorRestarts).queue = s.queue := rfl
@[simp] theorem detectorRestarts_replies (s : State) :
    (s.detectorRestarts).replies = s.replies := rfl
@[simp] theorem detectorRestarts_resetsDue (s : State) :
    (s.detectorRestarts).resetsDue = s.resetsDue := rfl
@[simp] theorem detectorRestarts_choices (s : State) :
    (s.detectorRestarts).choices = s.choices := rfl
@[simp] theorem detectorRestarts_drawn (s : State) :
    (s.detectorRestarts).drawn = s.drawn := rfl

/-! ## Hardware reset (70_reset_and_hazards.md R210). -/

@[simp] theorem hardwareReset_cb (s : State) :
    (s.hardwareReset).cb = State.reset.cb := rfl
@[simp] theorem hardwareReset_snapActive (s : State) :
    (s.hardwareReset).snapActive = State.reset.snapActive := rfl
@[simp] theorem hardwareReset_snapTodo (s : State) :
    (s.hardwareReset).snapTodo = State.reset.snapTodo := rfl
@[simp] theorem hardwareReset_snapVal (s : State) :
    (s.hardwareReset).snapVal = State.reset.snapVal := rfl
@[simp] theorem hardwareReset_sdState (s : State) :
    (s.hardwareReset).sdState = State.reset.sdState := rfl
@[simp] theorem hardwareReset_sdWin (s : State) :
    (s.hardwareReset).sdWin = State.reset.sdWin := rfl
@[simp] theorem hardwareReset_sdFill (s : State) :
    (s.hardwareReset).sdFill = State.reset.sdFill := rfl
@[simp] theorem hardwareReset_rxBuf (s : State) :
    (s.hardwareReset).rxBuf = State.reset.rxBuf := rfl
@[simp] theorem hardwareReset_rxCnt (s : State) :
    (s.hardwareReset).rxCnt = State.reset.rxCnt := rfl
@[simp] theorem hardwareReset_pfault (s : State) :
    (s.hardwareReset).pfault = State.reset.pfault := rfl
@[simp] theorem hardwareReset_queue (s : State) :
    (s.hardwareReset).queue = if s.snapActive then portSet s.queue .PB (portGet s.queue .PB).tail else s.queue := rfl
@[simp] theorem hardwareReset_replies (s : State) :
    (s.hardwareReset).replies = s.replies := rfl
@[simp] theorem hardwareReset_resetsDue (s : State) :
    (s.hardwareReset).resetsDue = s.resetsDue := rfl
@[simp] theorem hardwareReset_choices (s : State) :
    (s.hardwareReset).choices = s.choices := rfl
@[simp] theorem hardwareReset_drawn (s : State) :
    (s.hardwareReset).drawn = s.drawn := rfl

end Sys2Proof.Machine
end

