-- ==== Sys2Proof/Laws/Ops.lean ====
section
/-! SUPPORT. What the shared operations can do, said once: ports and replies, the port guard, open choices,
the next agent. -/

namespace Sys2Proof.Machine

/-! ## The parameters of 00_scope.md R5, as numerals -/

@[simp] theorem bufferSize_eq : bufferSize = 64 := rfl
@[simp] theorem lenOff_eq : lenOff = 4 := rfl
@[simp] theorem payOff_eq : payOff = 5 := rfl
@[simp] theorem crcOff_eq : crcOff = 62 := rfl
@[simp] theorem delim_eq : delim = 0#8 := rfl

/-! ## One value per port -/

@[simp] theorem portGet_portSet_same {α : Type} (v : PerPort α) (p : Port) (x : α) :
    portGet (portSet v p x) p = x := by cases p <;> rfl

theorem portGet_portSet_other {α : Type} (v : PerPort α) {p q : Port} (x : α) (h : q ≠ p) :
    portGet (portSet v p x) q = portGet v q := by
  cases p <;> cases q <;> first | rfl | exact absurd rfl h

@[simp] theorem portGet_PA {α : Type} (v : PerPort α) : portGet v .PA = v.pa := rfl
@[simp] theorem portGet_PB {α : Type} (v : PerPort α) : portGet v .PB = v.pb := rfl
@[simp] theorem portGet_PC {α : Type} (v : PerPort α) : portGet v .PC = v.pc := rfl
@[simp] theorem portSet_PA {α : Type} (v : PerPort α) (x : α) : portSet v .PA x = { v with pa := x } := rfl
@[simp] theorem portSet_PB {α : Type} (v : PerPort α) (x : α) : portSet v .PB x = { v with pb := x } := rfl
@[simp] theorem portSet_PC {α : Type} (v : PerPort α) (x : α) : portSet v .PC x = { v with pc := x } := rfl

@[simp] theorem faulted_answer (s : State) (p q : Port) (r : Reply) :
    (s.answer p r).faulted q = s.faulted q := rfl

/-! ## Replies -/

@[simp] theorem only_status (st : Status) : (Reply.only st).status = st := rfl
@[simp] theorem only_dout (st : Status) : (Reply.only st).dout = .nothing := rfl
@[simp] theorem okWith_status (out : Dout) : (Reply.okWith out).status = .ok := rfl
@[simp] theorem okWith_dout (out : Dout) : (Reply.okWith out).dout = out := rfl

/-- A reply whose status is no fault is returned. -/
theorem respond_of_not_fault {r : Reply} (h : r.status.isFault = false) (s : State) (p : Port) :
    s.respond p r = s.answer p r := by simp [State.respond, h]

/-- A reply whose status is a fault is raised. -/
theorem respond_of_fault {r : Reply} (h : r.status.isFault = true) (s : State) (p : Port) :
    s.respond p r = s.raiseFault p r.status := by simp [State.respond, h]

/-- Everything `respond` can do: return the reply, or raise its status. -/
theorem respond_cases (s : State) (p : Port) (r : Reply) :
    (r.status.isFault = false ∧ s.respond p r = s.answer p r) ∨
    (r.status.isFault = true ∧ s.respond p r = s.raiseFault p r.status) := by
  cases h : r.status.isFault
  · exact .inl ⟨rfl, respond_of_not_fault h s p⟩
  · exact .inr ⟨rfl, respond_of_fault h s p⟩

/-! ## The port guard (60_exceptions.md R191) -/

theorem atPort_running {p : Port} {s : State} (h : s.faulted p = false) (f : State → Result) :
    atPort p s f = f s := by simp [atPort, h]

theorem atPort_faulted {p : Port} {s : State} (h : s.faulted p = true) (f : State → Result) :
    atPort p s f = .next (s.answer p (Reply.only .errFaulted)) := by simp [atPort, h]

/-- Everything an operation at port `p` can answer a next state with. -/
theorem atPort_next_cases {p : Port} {s t : State} {f : State → Result} (h : atPort p s f = .next t) :
    (s.faulted p = true ∧ t = s.answer p (Reply.only .errFaulted)) ∨ (s.faulted p = false ∧ f s = .next t) := by
  cases hf : s.faulted p
  · exact .inr ⟨rfl, by rwa [atPort_running hf] at h⟩
  · rw [atPort_faulted hf] at h
    exact .inl ⟨rfl, by injection h with h; exact h.symm⟩

theorem codecOp_running {s : State} (h : s.faulted .PC = false) (r : Reply) :
    codecOp r s = .next (s.respond .PC r) := atPort_running h _

/-- A codec operation always answers a next state. -/
theorem codecOp_next (r : Reply) (s : State) : ∃ t, codecOp r s = .next t := by
  unfold codecOp atPort
  split <;> exact ⟨_, rfl⟩

/-- Everything a codec operation can answer. -/
theorem codecOp_cases {r : Reply} {s t : State} (h : codecOp r s = .next t) :
    (∃ r', t = s.answer .PC r') ∨ ∃ st, st.isFault = true ∧ s.faulted .PC = false ∧ t = s.raiseFault .PC st := by
  rcases atPort_next_cases h with ⟨_, rfl⟩ | ⟨hf, ht⟩
  · exact .inl ⟨_, rfl⟩
  · injection ht with ht
    rcases respond_cases s .PC r with ⟨_, e⟩ | ⟨hst, e⟩
    · exact .inl ⟨r, by rw [← ht, e]⟩
    · exact .inr ⟨r.status, hst, hf, by rw [← ht, e]⟩

/-- The two faults and their codes (60_exceptions.md R181). -/
theorem isFault_iff (st : Status) : st.isFault = true ↔ st = .errOverflow ∨ st = .errIllegal := by
  cases st <;> decide

/-! ## Open choices (log 4) -/

/-- `draw` changes only the record of the choices. -/
theorem draw_snd (s : State) : ∃ c d, s.draw.2 = { s with choices := c, drawn := d } := by
  unfold State.draw
  split
  · exact ⟨_, s.drawn, rfl⟩
  · exact ⟨s.choices, _, rfl⟩

/-- What `pick` gives is a member of the list, and only the record of the choices changes. -/
theorem pick_some {α : Type} {s t : State} {xs : List α} {x : α} (h : s.pick xs = some (x, t)) :
    x ∈ xs ∧ ∃ c d, t = { s with choices := c, drawn := d } := by
  match xs, h with
  | [y], h =>
    simp only [State.pick, Option.some.injEq, Prod.mk.injEq] at h
    exact ⟨by simp [h.1], s.choices, s.drawn, h.2.symm⟩
  | y :: z :: rest, h =>
    simp only [State.pick, Option.some.injEq, Prod.mk.injEq] at h
    obtain ⟨hx, rfl⟩ := h
    have hlt : s.draw.1 % (rest.length + 2) < (y :: z :: rest).length := Nat.mod_lt _ (by simp)
    refine ⟨?_, draw_snd s⟩
    rw [← hx, List.getD_eq_getElem _ _ hlt]
    exact List.getElem_mem _

/-- `pick` fails only on the empty list. -/
theorem pick_eq_none {α : Type} {s : State} {xs : List α} : s.pick xs = none ↔ xs = [] := by
  match xs with
  | [] => simp [State.pick]
  | [_] => simp [State.pick]
  | _ :: _ :: _ => simp [State.pick]

/-- Every member of the list is picked under some choice fixed in advance. -/
theorem pick_allowed {α : Type} (s : State) {xs : List α} {x : α} (h : x ∈ xs) :
    ∃ c c', ({ s with choices := c } : State).pick xs = some (x, { s with choices := c' }) := by
  match xs, h with
  | [y], h =>
    obtain rfl : x = y := by simpa using h
    exact ⟨s.choices, s.choices, rfl⟩
  | y :: z :: rest, h =>
    obtain ⟨k, hk, rfl⟩ := List.mem_iff_getElem.mp h
    have hk' : k % (rest.length + 2) = k := Nat.mod_eq_of_lt hk
    refine ⟨k :: s.choices, s.choices, ?_⟩
    simp only [State.pick, State.draw, hk']
    rw [List.getD_eq_getElem _ _ hk]

/-! ## The next agent -/

/-- A port is enabled exactly when it has an operation to perform (20_memory.md R40). -/
@[simp] theorem port_mem_enabledAgents {s : State} {p : Port} :
    Agent.port p ∈ s.enabledAgents ↔ portGet s.queue p ≠ [] := by
  cases p <;> simp [State.enabledAgents]

/-- Hardware reset is enabled exactly when an assertion of it is due (log 8). -/
@[simp] theorem reset_mem_enabledAgents {s : State} : Agent.reset ∈ s.enabledAgents ↔ s.resetsDue ≠ 0 := by
  simp [State.enabledAgents]

/-- Choosing an agent changes only the record of the choices. -/
theorem nextAgent_frame {s u : State} {a : Agent} (h : s.nextAgent = some (a, u)) :
    a ∈ s.enabledAgents ∧ ∃ c d, u = { s with choices := c, drawn := d } := pick_some h

/-- A port that moves has an operation to perform. -/
theorem nextAgent_port {s u : State} {p : Port} (h : s.nextAgent = some (.port p, u)) :
    (∃ r rest, portGet u.queue p = r :: rest) ∧ ∃ c d, u = { s with choices := c, drawn := d } := by
  obtain ⟨hmem, c, d, rfl⟩ := nextAgent_frame h
  refine ⟨?_, c, d, rfl⟩
  have hq := port_mem_enabledAgents.mp hmem
  cases hp : portGet s.queue p with
  | nil => exact absurd hp hq
  | cons r rest => exact ⟨r, rest, rfl⟩

/-- A hardware reset that takes place was due. -/
theorem nextAgent_reset {s u : State} (h : s.nextAgent = some (.reset, u)) :
    s.resetsDue ≠ 0 ∧ ∃ c d, u = { s with choices := c, drawn := d } := by
  obtain ⟨hmem, hu⟩ := nextAgent_frame h
  exact ⟨reset_mem_enabledAgents.mp hmem, hu⟩

end Sys2Proof.Machine
end

