-- ==== Sys2Proof/Laws/Units.lean ====
section
/-! SUPPORT. Everything a step of a snapshot and a push of the detector can do, said once, and the order of a
decode's checks. -/

namespace Sys2Proof.Machine

/-! ## Decoding (42_frame.md R115, R131) -/

/-- A frame is never rejected with a fault status (30_encoding.md R63). -/
theorem decodeFrame_rejects {cfg : Cfg} {b : List Byte} {why : Status} (h : decodeFrame cfg b = .rejected why) :
    why ∈ [.rejSize, .rejSync, .rejLen, .rejCrc, .rejStuff] := by
  unfold decodeFrame at h
  repeat' split at h
  all_goals first | (injection h with h; subst h; decide) | cases h

/-- A packet decode rejects with one of the six causes (60_exceptions.md R182). -/
theorem decodePacket_rejects {cfg : Cfg} {b : List Byte} {why : Status}
    (h : decodePacket cfg b = .rejected why) :
    why ∈ [.rejSize, .rejSync, .rejLen, .rejCrc, .rejStuff, .rejParse] := by
  unfold decodePacket at h
  split at h
  · rename_i hd
    injection h with h
    subst h
    have := decodeFrame_rejects hd
    simp only [List.mem_cons, List.not_mem_nil, or_false] at this ⊢
    tauto
  · split at h <;> first | (injection h with h; subst h; decide) | cases h

/-- The answer to a decode is returned, never raised (60_exceptions.md R183). -/
theorem verdict_reply_not_fault {cfg : Cfg} {b : List Byte} :
    (decodeFrame cfg b).reply.status.isFault = false ∧ (decodePacket cfg b).reply.status.isFault = false := by
  constructor
  · cases h : decodeFrame cfg b with
    | accepted d => rfl
    | rejected why =>
      have := decodeFrame_rejects h
      simp only [List.mem_cons, List.not_mem_nil, or_false] at this
      rcases this with rfl | rfl | rfl | rfl | rfl <;> rfl
  · cases h : decodePacket cfg b with
    | accepted d => rfl
    | rejected why =>
      have := decodePacket_rejects h
      simp only [List.mem_cons, List.not_mem_nil, or_false] at this
      rcases this with rfl | rfl | rfl | rfl | rfl | rfl <;> rfl

/-! ## The snapshot (44_counter_bank.md R167 to R171) -/

@[simp] theorem mem_snapLeft {s : State} {i : Channel} : i ∈ s.snapLeft ↔ s.snapTodo[i.val] = true := by
  simp [State.snapLeft]

theorem snapLeft_eq_nil {s : State} : s.snapLeft = [] ↔ ∀ i : Channel, s.snapTodo[i.val] = false := by
  simp only [List.eq_nil_iff_forall_not_mem, mem_snapLeft, Bool.not_eq_true]

/-- One step of `CB.SNAP`: begin, read some channel left, or return when none is left. -/
theorem snapStep_cases (s : State) :
    (s.snapActive = false ∧ s.snapStep = s.snapBegin) ∨
    (s.snapActive = true ∧ ∃ i : Channel, s.snapTodo[i.val] = true ∧
      ∃ c d, s.snapStep = ({ s with choices := c, drawn := d } : State).snapRead i) ∨
    (s.snapActive = true ∧ (∀ i : Channel, s.snapTodo[i.val] = false) ∧ s.snapStep = s.snapReturn) := by
  by_cases ha : s.snapActive = true
  · refine .inr ?_
    cases hp : s.pick s.snapLeft with
    | none =>
      exact .inr ⟨ha, snapLeft_eq_nil.mp (pick_eq_none.mp hp), by simp [State.snapStep, ha, hp]⟩
    | some it =>
      obtain ⟨i, t⟩ := it
      obtain ⟨hm, c, d, rfl⟩ := pick_some hp
      exact .inl ⟨ha, i, mem_snapLeft.mp hm, c, d, by simp [State.snapStep, ha, hp]⟩
  · exact .inl ⟨by simpa using ha, by simp [State.snapStep, ha]⟩

/-! ## The detector (43_sync.md R142 to R146) -/

/-- The window takes a byte: the fill is at least one and at most four after it, and nothing but window and
fill changes (43_sync.md R143). -/
theorem windowTakes_frame (s : State) (b : Byte) :
    ∃ w n, s.windowTakes b = { s with sdWin := w, sdFill := n } ∧
      (n.val = s.sdFill.val + 1 ∧ s.sdFill.val < 4 ∨ n = s.sdFill ∧ s.sdFill.val = 4) := by
  unfold State.windowTakes
  split
  · exact ⟨_, _, rfl, .inl ⟨rfl, by assumption⟩⟩
  · exact ⟨_, s.sdFill, rfl, .inr ⟨rfl, by omega⟩⟩

/-- The comparison: a full window equal to the header starts a candidate; otherwise nothing (43_sync.md R144). -/
theorem matchHeader_cases (cfg : Cfg) (s : State) :
    (s.sdFill.val = 4 ∧ s.sdWin = cfg.syncWord ∧ s.matchHeader cfg =
      { s with rxBuf := withHeader s.rxBuf cfg.syncWord, rxCnt := 4, sdFill := 0, sdState := .collect }) ∨
    (¬ (s.sdFill.val = 4 ∧ s.sdWin = cfg.syncWord) ∧ s.matchHeader cfg = s) := by
  unfold State.matchHeader
  split
  · exact .inl ⟨by simp_all, by simp_all, rfl⟩
  · exact .inr ⟨by assumption, rfl⟩

/-- A hunt step changes only the detector (43_sync.md R143, R144). -/
theorem huntStep_frame (cfg : Cfg) (s : State) (b : Byte) :
    ∃ st w n buf c, s.huntStep cfg b =
      { s with sdState := st, sdWin := w, sdFill := n, rxBuf := buf, rxCnt := c } := by
  obtain ⟨w, n, e, _⟩ := windowTakes_frame s b
  unfold State.huntStep
  rcases matchHeader_cases cfg (s.windowTakes b) with ⟨_, _, e'⟩ | ⟨_, e'⟩ <;> rw [e', e]
  · exact ⟨_, _, _, _, _, rfl⟩
  · exact ⟨s.sdState, w, n, s.rxBuf, s.rxCnt, rfl⟩

/-- The header is what a started candidate begins with (43_sync.md R147 (b)). -/
theorem withHeader_take (buf : Vector Byte 64) (w : Vector Byte 4) :
    (withHeader buf w).toList.take 4 = w.toList := by
  apply List.ext_getElem
  · simp
  · intro n h1 h2
    have hn : n < 4 := by simpa using h2
    simp only [List.getElem_take, Vector.getElem_toList, withHeader]
    interval_cases n <;> simp

/-- A push that the detector does not stop on (43_sync.md R142): a hunt step, a stored byte, or a completion. -/
theorem push_cases {cfg : Cfg} {s t : State} {b : Byte} (h : s.push cfg b = .next t) :
    (s.sdState = .hunt ∧ t = (s.huntStep cfg b).answer .PC (Reply.only .pending)) ∨
    (s.sdState = .collect ∧ ∃ (hlt : s.rxCnt.val < 64) (hb : s.rxCnt.val + 1 < 65),
      (s.rxCnt.val + 1 < 64 ∧
        t = { s with rxBuf := s.rxBuf.set s.rxCnt.val b hlt, rxCnt := ⟨s.rxCnt.val + 1, hb⟩ }.answer .PC
          (Reply.only .pending)) ∨
      (s.rxCnt.val = 63 ∧
        t = { s with rxBuf := s.rxBuf.set s.rxCnt.val b hlt, sdState := .hunt, sdFill := 0, rxCnt := 0 }.answer .PC
          (decodePacket cfg (s.rxBuf.set s.rxCnt.val b hlt).toList).reply)) := by
  unfold State.push at h
  split at h
  · rename_i hs
    injection h with h
    exact .inl ⟨hs, h.symm⟩
  · rename_i hs
    unfold State.collectStep at h
    split at h
    · rename_i hlt
      refine .inr ⟨hs, hlt, by omega, ?_⟩
      split at h <;> rename_i hc <;> injection h with h
      · exact .inl ⟨hc, h.symm⟩
      · exact .inr ⟨by omega, h.symm⟩
    · cases h

end Sys2Proof.Machine
end

