-- ==== Sys2Proof/Laws/Exec.lean ====
section
/-! SUPPORT. Everything an instruction can do, said once. -/

namespace Sys2Proof.Machine

/-- At a faulted port every instruction answers `ERR_FAULTED` and nothing else (60_exceptions.md R191). -/
theorem exec_faulted {i : Instr} {s : State} (h : s.faulted i.port = true) :
    exec i s = .next (s.answer i.port (Reply.only .errFaulted)) := by
  cases i <;>
    simp only [exec, execCbInc, execCbDec, execCbRd, execCbSnap, execCrc16, execCobsEnc, execCobsDec,
      execEncFrame, execDecFrame, execEncPkt, execDecPkt, execSyncPush, execPktSensorData, execPktReset,
      execPktPing, execPktPong, codecOp] <;>
    exact atPort_faulted h _

/-- Everything an instruction can do: nothing but `ERR_FAULTED` at a faulted port (60_exceptions.md R191);
otherwise the counter-bank operations, a push of the detector, or, for the other codec operations, a reply. -/
theorem exec_cases {i : Instr} {s t : State} (h : exec i s = .next t) :
    (s.faulted i.port = true ∧ t = s.answer i.port (Reply.only .errFaulted)) ∨
    (s.faulted i.port = false ∧
      ((∃ ch, i = .cbInc ch ∧ t = (s.cellRMW ch fun v => wrap32 (v.toInt + 1)).answer .PA (Reply.only .ok)) ∨
       (∃ ch, i = .cbDec ch ∧ t = (s.cellRMW ch fun v => wrap32 (v.toInt - 1)).answer .PA (Reply.only .ok)) ∨
       (∃ ch, i = .cbRd ch ∧ t = s.answer .PB (Reply.okWith (.cell (s.cellRead ch)))) ∨
       (i = .cbSnap ∧ t = s.snapStep) ∨
       (∃ b, i = .syncPush b ∧ s.push Config.cfg b = .next t) ∨
       (i.port = .PC ∧ (∀ b, i ≠ .syncPush b) ∧ ∃ r, t = s.respond .PC r))) := by
  have codec : ∀ r, codecOp r s = .next t → i.port = .PC → (∀ b, i ≠ .syncPush b) →
      (s.faulted i.port = true ∧ t = s.answer i.port (Reply.only .errFaulted)) ∨
      (s.faulted i.port = false ∧ (i.port = .PC ∧ (∀ b, i ≠ .syncPush b) ∧ ∃ r, t = s.respond .PC r)) := by
    intro r hr hp hb
    rw [hp]
    rcases atPort_next_cases hr with ⟨hf, rfl⟩ | ⟨hf, ht⟩
    · exact .inl ⟨hf, rfl⟩
    · injection ht with ht
      exact .inr ⟨hf, rfl, hb, r, ht.symm⟩
  cases i with
  | cbInc ch =>
    simp only [exec, execCbInc] at h
    rcases atPort_next_cases h with ⟨hf, rfl⟩ | ⟨hf, ht⟩
    · exact .inl ⟨hf, rfl⟩
    · injection ht with ht
      exact .inr ⟨hf, .inl ⟨ch, rfl, ht.symm⟩⟩
  | cbDec ch =>
    simp only [exec, execCbDec] at h
    rcases atPort_next_cases h with ⟨hf, rfl⟩ | ⟨hf, ht⟩
    · exact .inl ⟨hf, rfl⟩
    · injection ht with ht
      exact .inr ⟨hf, .inr (.inl ⟨ch, rfl, ht.symm⟩)⟩
  | cbRd ch =>
    simp only [exec, execCbRd] at h
    rcases atPort_next_cases h with ⟨hf, rfl⟩ | ⟨hf, ht⟩
    · exact .inl ⟨hf, rfl⟩
    · injection ht with ht
      exact .inr ⟨hf, .inr (.inr (.inl ⟨ch, rfl, ht.symm⟩))⟩
  | cbSnap =>
    simp only [exec, execCbSnap] at h
    rcases atPort_next_cases h with ⟨hf, rfl⟩ | ⟨hf, ht⟩
    · exact .inl ⟨hf, rfl⟩
    · injection ht with ht
      exact .inr ⟨hf, .inr (.inr (.inr (.inl ⟨rfl, ht.symm⟩)))⟩
  | syncPush b =>
    simp only [exec, execSyncPush] at h
    rcases atPort_next_cases h with ⟨hf, rfl⟩ | ⟨hf, ht⟩
    · exact .inl ⟨hf, rfl⟩
    · exact .inr ⟨hf, .inr (.inr (.inr (.inr (.inl ⟨b, rfl, ht⟩))))⟩
  | _ =>
    rcases codec _ h rfl (fun b => by simp) with hl | ⟨hf, hr⟩
    · exact .inl hl
    · exact .inr ⟨hf, .inr (.inr (.inr (.inr (.inr hr))))⟩

/-- A step of `CB.SNAP` leaves everything but the snapshot's state, PB's list and replies, and the record of
the choices. -/
theorem snapStep_frame (s : State) :
    s.snapStep.cb = s.cb ∧ SameDetector s s.snapStep ∧ s.snapStep.pfault = s.pfault ∧
      s.snapStep.resetsDue = s.resetsDue ∧
      ∀ q, q ≠ Port.PB → portGet s.snapStep.queue q = portGet s.queue q ∧
        portGet s.snapStep.replies q = portGet s.replies q := by
  rcases snapStep_cases s with ⟨_, e⟩ | ⟨_, i, _, c, d, e⟩ | ⟨_, _, e⟩ <;> rw [e]
  · simp [SameDetector]
  · simp [SameDetector]
  · refine ⟨rfl, ⟨rfl, rfl, rfl, rfl, rfl⟩, rfl, rfl, fun q hq => ?_⟩
    cases q <;> first | exact absurd rfl hq | exact ⟨rfl, rfl⟩

/-- A push changes only the detector, and PC's list and replies (43_sync.md R142). -/
theorem push_frame {cfg : Cfg} {s t : State} {b : Byte} (h : s.push cfg b = .next t) :
    SameBank s t ∧ t.pfault = s.pfault ∧ t.resetsDue = s.resetsDue ∧
      (∃ r, t.queue = portSet s.queue .PC (portGet s.queue .PC).tail ∧
        t.replies = portSet s.replies .PC (r :: portGet s.replies .PC)) := by
  rcases push_cases h with ⟨_, rfl⟩ | ⟨_, _, _, ⟨_, rfl⟩ | ⟨_, rfl⟩⟩
  · obtain ⟨st, w, n, buf, c, e⟩ := huntStep_frame cfg s b
    rw [e]
    exact ⟨⟨rfl, rfl, rfl, rfl⟩, rfl, rfl, _, rfl, rfl⟩
  · exact ⟨⟨rfl, rfl, rfl, rfl⟩, rfl, rfl, _, rfl, rfl⟩
  · exact ⟨⟨rfl, rfl, rfl, rfl⟩, rfl, rfl, _, rfl, rfl⟩

end Sys2Proof.Machine
end

