-- ==== Sys2Proof/Laws/PerInstr.lean ====
section
/-! SUPPORT. Families of statements about every instruction as syntax, one lemma per constructor. -/

namespace Sys2Proof.Laws.OpcodeNibbleNamesPort

/-- "One nibble per port keeps wrong-port words apart" (92_eei_decisions.md D9): the top nibble of an
instruction's command word is 1 at PA, 2 at PB, 3 at PC, and an `ENCODE` is PC's. -/
def Statement (i : Instr) : Prop :=
  match encode i with
  | .cmd word _ =>
    word.extractLsb' 12 4 = (match i.port with
      | .PA => 1#4
      | .PB => 2#4
      | .PC => 3#4)
  | .encode _ => i.port = .PC

/-- The top nibble of a command word is the top nibble of its operation code. -/
theorem cmdWord_nibble (opc arg : Byte) : (cmdWord opc arg).extractLsb' 12 4 = opc.extractLsb' 4 4 := by
  ext k hk
  simp only [cmdWord, BitVec.getElem_extractLsb', BitVec.getLsbD_append]
  rw [if_neg (by omega), show 12 + k - 8 = 4 + k by omega]

theorem cbInc (ch : Channel) : Statement (.cbInc ch) := cmdWord_nibble 0x10#8 _
theorem cbDec (ch : Channel) : Statement (.cbDec ch) := cmdWord_nibble 0x11#8 _
theorem cbRd (ch : Channel) : Statement (.cbRd ch) := cmdWord_nibble 0x20#8 _
theorem cbSnap : Statement .cbSnap := cmdWord_nibble 0x21#8 _
theorem crc16 (din : List Byte) : Statement (.crc16 din) := cmdWord_nibble 0x30#8 _
theorem cobsEnc (din : List Byte) : Statement (.cobsEnc din) := cmdWord_nibble 0x31#8 _
theorem cobsDec (din : List Byte) : Statement (.cobsDec din) := cmdWord_nibble 0x32#8 _
theorem encFrame (din : List Byte) : Statement (.encFrame din) := cmdWord_nibble 0x33#8 _
theorem decFrame (din : List Byte) : Statement (.decFrame din) := cmdWord_nibble 0x34#8 _
theorem encPkt (din : List Byte) : Statement (.encPkt din) := cmdWord_nibble 0x35#8 _
theorem decPkt (din : List Byte) : Statement (.decPkt din) := cmdWord_nibble 0x36#8 _
theorem syncPush (b : Byte) : Statement (.syncPush b) := cmdWord_nibble 0x37#8 _
theorem pktSensorData (sequence : Word) (counters : Vector Word 8) :
    Statement (.pktSensorData sequence counters) := rfl
theorem pktReset (channelId : Byte) : Statement (.pktReset channelId) := rfl
theorem pktPing (timestamp : Word) : Statement (.pktPing timestamp) := rfl
theorem pktPong (timestamp : Word) : Statement (.pktPong timestamp) := rfl

end Sys2Proof.Laws.OpcodeNibbleNamesPort
end

