-- ==== Sys2Proof/Laws/Step.lean ====
section
/-! SUPPORT. Everything a step can do, said once. -/

namespace Sys2Proof.Machine

/-- Port `p`'s step when its first request is an instruction. -/
theorem portStep_instr {s : State} {p : Port} {r : Request} {rest : List Request} {i : Instr}
    (hq : portGet s.queue p = r :: rest) (hd : decode p r = .ok i) : portStep s p = exec i s := by
  simp [portStep, hq, hd]

/-- Port `p`'s step when its first request is no instruction of it. -/
theorem portStep_reject {s : State} {p : Port} {r : Request} {rest : List Request} {e : DecodeError}
    (hq : portGet s.queue p = r :: rest) (hd : decode p r = .error e) :
    portStep s p = .next (s.rejectRequest p e) := by
  simp [portStep, hq, hd]

/-- Everything a step can be: waiting, the first instruction of a port's list, a request its port does not
take, or hardware reset. -/
theorem step_cases (s : State) :
    (s.enabledAgents = [] ∧ step s = .next s) ∨
    (∃ p u r rest i, s.nextAgent = some (.port p, u) ∧ portGet u.queue p = r :: rest ∧
      decode p r = .ok i ∧ step s = exec i u) ∨
    (∃ p u r rest e, s.nextAgent = some (.port p, u) ∧ portGet u.queue p = r :: rest ∧
      decode p r = .error e ∧ step s = .next (u.rejectRequest p e)) ∨
    (∃ u, s.nextAgent = some (.reset, u) ∧ step s = .next u.takeReset) := by
  unfold step
  cases h : s.nextAgent with
  | none => exact .inl ⟨pick_eq_none.mp h, rfl⟩
  | some au =>
    obtain ⟨a, u⟩ := au
    cases a with
    | reset => exact .inr (.inr (.inr ⟨u, rfl, rfl⟩))
    | port p =>
      obtain ⟨⟨r, rest, hq⟩, _⟩ := nextAgent_port h
      cases hd : decode p r with
      | ok i => exact .inr (.inl ⟨p, u, r, rest, i, rfl, hq, hd, portStep_instr hq hd⟩)
      | error e => exact .inr (.inr (.inl ⟨p, u, r, rest, e, rfl, hq, hd, portStep_reject hq hd⟩))

/-- Everything a refused request can do to the state (60_exceptions.md R185, R189 to R191). -/
theorem rejectRequest_cases (s : State) (p : Port) (e : DecodeError) :
    (∃ r, s.rejectRequest p e = s.answer p r) ∨
    (s.faulted p = false ∧ s.rejectRequest p e = s.raiseFault p .errIllegal) := by
  unfold State.rejectRequest
  cases h : s.faulted p
  · cases e
    · exact .inr ⟨rfl, rfl⟩
    · exact .inl ⟨_, rfl⟩
  · exact .inl ⟨_, rfl⟩

end Sys2Proof.Machine
end

