-- ==== Sys2Proof/Tests/Slice0.lean ====
section
/-! SUPPORT. The model's own tests. Expected results are those of spec/95_test_vectors.md (V..) or are worked out
from the rule named; then one witness for the hypotheses of each statement. -/

namespace Sys2Proof.Tests

open Sys2Proof Sys2Proof.Machine

/-! ## Helpers -/

/-- The next state, if any. -/
def nextOf : Result → Option State
  | .next t => some t
  | .fault _ => none
  | .refused _ => none

/-- The reset state with one request waiting at a port. -/
def issued (p : Port) (r : Request) : State := State.reset.placeRequest p r

/-- The last reply at a port after one step. -/
def stepReply (s : State) (p : Port) : Option Reply :=
  (nextOf (step s)).bind fun t => (portGet t.replies p).head?

/-- Port PC faulted as V92 leaves it. -/
def pcFaulted : State := { State.reset with pfault := ⟨⟨false, 0#4⟩, ⟨false, 0#4⟩, ⟨true, 0x8#4⟩⟩ }

/-- The reset state with one cell set. -/
def withCell (ch : Channel) (v : Word) : State := { State.reset with cb := State.reset.cb.set ch.val v }

/-- A frame under `CFG_REF`: header, length byte, stuffed bytes, zero padding, checksum. -/
def frame (len : Byte) (stuffed : List Byte) (hi lo : Byte) : List Byte :=
  [0xA5#8, 0x5A#8, 0xC3#8, 0x3C#8, len] ++ stuffed ++ List.replicate (57 - stuffed.length) 0#8 ++ [hi, lo]

/-- `RST255`, the frame of X2. -/
def rst255 : List Byte := frame 0x04#8 [0x03#8, 0x01#8, 0xFF#8, 0x00#8] 0xEB#8 0x3C#8

/-! ## Well-formed operands (30_encoding.md R57, R60) -/

theorem test_wf_crc16 : (Instr.crc16 (List.replicate 65 0#8)).wellFormed Cfg.ref = false ∧
    (Instr.crc16 (List.replicate 64 0#8)).wellFormed Cfg.ref = true := by decide

theorem test_wf_cobsEnc : (Instr.cobsEnc (List.replicate 56 1#8)).wellFormed Cfg.ref = false ∧
    (Instr.cobsEnc (List.replicate 55 1#8)).wellFormed Cfg.ref = true := by decide

theorem test_wf_cobsDec : (Instr.cobsDec (List.replicate 58 1#8)).wellFormed Cfg.ref = false ∧
    (Instr.cobsDec (List.replicate 57 1#8)).wellFormed Cfg.ref = true := by decide

theorem test_wf_encFrame : (Instr.encFrame (List.replicate 56 1#8)).wellFormed Cfg.ref = false ∧
    (Instr.encFrame (List.replicate 55 1#8)).wellFormed Cfg.ref = true := by decide

/-- V55b: tag 04 is no variant. -/
theorem test_wf_encPkt : (Instr.encPkt [0x04#8, 0x00#8]).wellFormed Cfg.ref = false ∧
    (Instr.encPkt [0x01#8, 0xFF#8]).wellFormed Cfg.ref = true := by decide

/-- A serialiser's image that does not fit is ill-formed as a packet too (42_frame.md R126 (b)). -/
theorem test_wf_packet : (Instr.pktPing 0#32).wellFormed { Cfg.ref with maxCobsLen := 6 } = false ∧
    (Instr.pktPing 0#32).wellFormed Cfg.ref = true := by decide

/-- Ports PA and PB have no `din`, nor has `SYNC.PUSH`; a packet goes to PC and must be an image. -/
theorem test_wf_requests :
    (Request.cmd 0x1000#16 [0#8]).wellFormed .PA = false ∧ (Request.cmd 0x2100#16 [0#8]).wellFormed .PB = false ∧
    (Request.cmd 0x37A5#16 [0#8]).wellFormed .PC = false ∧ (Request.cmd 0x3000#16 [0#8]).wellFormed .PC = true ∧
    (Request.encode [0x01#8, 0xFF#8]).wellFormed .PA = false ∧
    (Request.encode [0x04#8, 0x00#8]).wellFormed .PC = false ∧
    (Request.encode [0x01#8, 0xFF#8]).wellFormed .PC = true := by decide

/-! ## Decoding: words written out from 30_encoding.md R57 to R59 and 42_frame.md R127 -/

theorem test_decode_cbInc : decode .PA (.cmd 0b0001000000000011#16 []) = .ok (.cbInc 3) := by decide
theorem test_decode_cbDec : decode .PA (.cmd 0b0001000100000111#16 []) = .ok (.cbDec 7) := by decide
theorem test_decode_cbRd : decode .PB (.cmd 0b0010000000000101#16 []) = .ok (.cbRd 5) := by decide
theorem test_decode_cbSnap : decode .PB (.cmd 0b0010000100000000#16 []) = .ok .cbSnap := by decide
theorem test_decode_crc16 : decode .PC (.cmd 0b0011000000000000#16 [1#8]) = .ok (.crc16 [1#8]) := by decide
theorem test_decode_cobsEnc : decode .PC (.cmd 0b0011000100000000#16 [1#8]) = .ok (.cobsEnc [1#8]) := by decide
theorem test_decode_cobsDec : decode .PC (.cmd 0b0011001000000000#16 [1#8]) = .ok (.cobsDec [1#8]) := by decide
theorem test_decode_encFrame : decode .PC (.cmd 0b0011001100000000#16 [1#8]) = .ok (.encFrame [1#8]) := by decide
theorem test_decode_decFrame : decode .PC (.cmd 0b0011010000000000#16 [1#8]) = .ok (.decFrame [1#8]) := by decide
theorem test_decode_encPkt : decode .PC (.cmd 0b0011010100000000#16 [1#8]) = .ok (.encPkt [1#8]) := by decide
theorem test_decode_decPkt : decode .PC (.cmd 0b0011011000000000#16 [1#8]) = .ok (.decPkt [1#8]) := by decide
theorem test_decode_syncPush : decode .PC (.cmd 0b0011011110100101#16 []) = .ok (.syncPush 0xA5#8) := by decide

/-- The image of X1: tag 00, then nine 32-bit fields, most significant byte first. -/
theorem test_decode_pktSensorData : decode .PC (.encode
    [0x00#8, 0x00#8, 0x00#8, 0x00#8, 0x2A#8, 0x00#8, 0x00#8, 0x00#8, 0x01#8, 0xFF#8, 0xFF#8, 0xFF#8, 0xFE#8,
      0x00#8, 0x00#8, 0x00#8, 0x03#8, 0xFF#8, 0xFF#8, 0xFF#8, 0xFC#8, 0x00#8, 0x00#8, 0x00#8, 0x05#8,
      0xFF#8, 0xFF#8, 0xFF#8, 0xFA#8, 0x00#8, 0x00#8, 0x00#8, 0x07#8, 0xFF#8, 0xFF#8, 0xFF#8, 0xF8#8])
    = .ok (.pktSensorData 42#32 #v[1#32, -2#32, 3#32, -4#32, 5#32, -6#32, 7#32, -8#32]) := by decide

theorem test_decode_pktReset : decode .PC (.encode [0x01#8, 0xFF#8]) = .ok (.pktReset 255#8) := by decide
theorem test_decode_pktPing :
    decode .PC (.encode [0x02#8, 0x01#8, 0x02#8, 0x03#8, 0x04#8]) = .ok (.pktPing 0x01020304#32) := by decide
theorem test_decode_pktPong :
    decode .PC (.encode [0x03#8, 0x00#8, 0x00#8, 0x00#8, 0x00#8]) = .ok (.pktPong 0#32) := by decide

/-- V88 to V95: reserved bits, the wrong port, unassigned operation codes. -/
theorem test_decode_illegal :
    decode .PA (.cmd 0x1008#16 []) = .error .illegalWord ∧ decode .PA (.cmd 0x2003#16 []) = .error .illegalWord ∧
    decode .PB (.cmd 0x1003#16 []) = .error .illegalWord ∧ decode .PB (.cmd 0x2101#16 []) = .error .illegalWord ∧
    decode .PC (.cmd 0x3800#16 []) = .error .illegalWord ∧ decode .PC (.cmd 0x3001#16 []) = .error .illegalWord ∧
    decode .PC (.cmd 0x1000#16 []) = .error .illegalWord ∧ decode .PA (.cmd 0x0000#16 []) = .error .illegalWord ∧
    decode .PB (.cmd 0xFFFF#16 []) = .error .illegalWord := by decide

/-- 42_frame.md R128: a wrong length for the tag, and every tag above `0x03`, is no packet (V55b to V55d). -/
theorem test_decode_not_a_packet :
    deRef [] = none ∧ deRef [0x01#8] = none ∧ deRef [0x01#8, 0x02#8, 0x03#8] = none ∧
    deRef [0x04#8, 0x00#8] = none ∧ deRef (0x00#8 :: List.replicate 35 0#8) = none ∧
    deRef (List.replicate 55 0#8) = none := by decide

/-- The rows of spec/opcode_table.json by their numbering: `match` with every other bit zero. -/
theorem test_table_words :
    decodeTableWord 16 0x1000 = some (.cbInc 0) ∧ decodeTableWord 16 0x1100 = some (.cbDec 0) ∧
    decodeTableWord 16 0x2000 = some (.cbRd 0) ∧ decodeTableWord 16 0x3700 = some (.syncPush 0#8) ∧
    decodeTableWord 8 0 = some (.pktSensorData 0#32 (Vector.replicate 8 0#32)) ∧
    decodeTableWord 8 2 = some (.pktPing 0#32) ∧ decodeTableWord 8 3 = some (.pktPong 0#32) := by decide

/-- 30_encoding.md R66: the pseudo-operations; a delta other than +1 and -1 has no expansion. -/
theorem test_pseudo :
    expandPseudo serRef (.applyDelta 3 1) = some (.cmd 0x1003#16 []) ∧
    expandPseudo serRef (.applyDelta 3 (-1)) = some (.cmd 0x1103#16 []) ∧
    expandPseudo serRef (.applyDelta 3 2) = none ∧ expandPseudo serRef .snapshot = some (.cmd 0x2100#16 []) ∧
    expandPseudo serRef (.encode (.reset 255#8)) = some (.cmd 0x3500#16 [0x01#8, 0xFF#8]) ∧
    expandPseudo serRef (.decode [7#8]) = some (.cmd 0x3600#16 [7#8]) := by decide

/-! ## The counter bank -/

/-- V80. -/
theorem test_cbInc : (nextOf (exec (.cbInc 3) (withCell 3 5#32))).map (·.cb)
    = some #v[0#32, 0#32, 0#32, 6#32, 0#32, 0#32, 0#32, 0#32] := by decide
/-- V82: the increment wraps, no fault. -/
theorem test_cbInc_wraps : (nextOf (exec (.cbInc 7) (withCell 7 0x7FFFFFFF#32))).map (fun t => (t.cb[7], t.pfault.pa.set))
    = some (0x80000000#32, false) := by decide
/-- V81. -/
theorem test_cbDec : (nextOf (exec (.cbDec 0) State.reset)).map (fun t => (t.cb[0], t.cb[1]))
    = some (0xFFFFFFFF#32, 0#32) := by decide
/-- V83. -/
theorem test_cbDec_wraps : (nextOf (exec (.cbDec 7) (withCell 7 0x80000000#32))).map (·.cb[7])
    = some 0x7FFFFFFF#32 := by decide
/-- V85. -/
theorem test_cbRd : (nextOf (exec (.cbRd 3) (withCell 3 6#32))).map (fun t => (t.replies.pb, t.cb[3]))
    = some ([⟨.ok, .cell 6#32⟩], 6#32) := by decide
/-- 44_counter_bank.md R169: with one channel left, that one is read. -/
theorem test_cbSnap_read : (nextOf (exec .cbSnap { (withCell 5 9#32) with
      snapActive := true, snapTodo := #v[false, false, false, false, false, true, false, false] })).map
      (fun t => (t.snapVal, t.snapTodo, t.replies.pb))
    = some (#v[0#32, 0#32, 0#32, 0#32, 0#32, 9#32, 0#32, 0#32], Vector.replicate 8 false, []) := by decide
/-- 44_counter_bank.md R171. -/
theorem test_cbSnap_return : (nextOf (exec .cbSnap { State.reset with
      snapActive := true, snapVal := Vector.replicate 8 7#32 })).map (fun t => (t.snapActive, t.replies.pb))
    = some (false, [⟨.ok, .cells (Vector.replicate 8 7#32)⟩]) := by decide

/-! ## The checksum -/

/-- V1, V4, V5, V7. -/
theorem test_crc16_short : crc16 [] = 0x0000#16 ∧ crc16 [0x01#8] = 0x1189#16 ∧ crc16 [0x80#8] = 0x8408#16 ∧
    crc16 [0x41#8] = 0x538D#16 := by decide +kernel
/-- V9, the check value of 40_checksum.md R81. -/
theorem test_crc16_check : crc16 [0x31#8, 0x32#8, 0x33#8, 0x34#8, 0x35#8, 0x36#8, 0x37#8, 0x38#8, 0x39#8]
    = 0x2189#16 := by decide +kernel
/-- V15, V16. -/
theorem test_crc16_operand : crc16Reply (List.replicate 65 0#8) = ⟨.errOperand, .nothing⟩ ∧
    crc16Reply (List.replicate 64 0#8) = ⟨.ok, .checksum 0x0000#16⟩ := by decide +kernel

/-! ## Byte stuffing -/

/-- V17, V20, V23, V24. -/
theorem test_cobsEnc : cobsEnc [] = [0x01#8] ∧
    cobsEnc [0x11#8, 0x22#8, 0x00#8, 0x33#8] = [0x03#8, 0x11#8, 0x22#8, 0x02#8, 0x33#8] ∧
    cobsEnc [0x11#8, 0x00#8] = [0x02#8, 0x11#8, 0x01#8] ∧ cobsEnc [0x00#8, 0x11#8] = [0x01#8, 0x02#8, 0x11#8] := by
  decide
/-- V36, V45. -/
theorem test_cobsEnc_op :
    cobsEncReply Cfg.ref [0x11#8, 0x22#8, 0x00#8, 0x33#8]
      = ⟨.ok, .bytes [0x03#8, 0x11#8, 0x22#8, 0x02#8, 0x33#8, 0x00#8]⟩ ∧
    cobsEncReply Cfg.ref (List.replicate 56 1#8) = ⟨.errOverflow, .nothing⟩ := by decide
/-- V20 read backwards, V28, V29, V31, V32, V34. -/
theorem test_cobsDec : cobsDec [0x03#8, 0x11#8, 0x22#8, 0x02#8, 0x33#8] = some [0x11#8, 0x22#8, 0x00#8, 0x33#8] ∧
    cobsDec [0x00#8] = none ∧ cobsDec [0x02#8] = none ∧ cobsDec [0x03#8, 0x11#8, 0x00#8] = none ∧
    cobsDec [0x01#8, 0x00#8] = none ∧ cobsDec [0xFF#8, 0x01#8, 0x02#8] = none := by decide
/-- V39, V41, V43, V46. -/
theorem test_cobsDec_op :
    cobsDecReply Cfg.ref [0x01#8, 0x00#8] = ⟨.ok, .bytes []⟩ ∧
    cobsDecReply Cfg.ref [0x02#8, 0x11#8] = ⟨.rejStuff, .nothing⟩ ∧
    cobsDecReply Cfg.ref [0x02#8, 0x00#8, 0x00#8] = ⟨.rejStuff, .nothing⟩ ∧
    cobsDecReply Cfg.ref (List.replicate 58 1#8) = ⟨.errOperand, .nothing⟩ := by decide

/-! ## Frames -/

/-- V48, V55a. -/
theorem test_encFrame : encFrameReply Cfg.ref [] = ⟨.ok, .bytes (frame 0x02#8 [0x01#8, 0x00#8] 0x5D#8 0x4F#8)⟩ ∧
    encFrameReply Cfg.ref (List.replicate 56 1#8) = ⟨.errOverflow, .nothing⟩ := by decide +kernel
/-- V54: a frame without padding. -/
theorem test_encFrame_full : encodeFrame Cfg.ref (List.replicate 55 0#8)
    = frame 0x39#8 (List.replicate 56 1#8 ++ [0x00#8]) 0xA0#8 0x0C#8 := by decide +kernel
/-- V49, V55b: `Encode` of `Reset` 255, and an image of no packet. -/
theorem test_encPkt : encPktReply Cfg.ref [0x01#8, 0xFF#8] = ⟨.ok, .bytes rst255⟩ ∧
    encPktReply Cfg.ref [0x04#8, 0x00#8] = ⟨.errOperand, .nothing⟩ := by decide +kernel
/-- V56, V57, V58, V59, V61. -/
theorem test_decFrame_rejects :
    decodeFrame Cfg.ref (rst255.take 63) = .rejected .rejSize ∧
    decodeFrame Cfg.ref (rst255.set 0 0xA4#8) = .rejected .rejSync ∧
    decodeFrame Cfg.ref (rst255.set 4 0x00#8) = .rejected .rejLen ∧
    decodeFrame Cfg.ref (rst255.set 4 0x3A#8) = .rejected .rejLen ∧
    decodeFrame Cfg.ref (rst255.set 63 0xC3#8) = .rejected .rejCrc := by decide +kernel
/-- V66, V67. -/
theorem test_decFrame_payload :
    decodeFrame Cfg.ref (frame 0x02#8 [0x02#8, 0x11#8] 0x76#8 0x2F#8) = .rejected .rejStuff ∧
    decodeFrame Cfg.ref (frame 0x02#8 [0x01#8, 0x00#8] 0x5D#8 0x4F#8) = .accepted [] := by decide +kernel
/-- V63 (padding is ignored), X2. -/
theorem test_decPkt : (decodePacket Cfg.ref (rst255.set 20 0x77#8)).reply = ⟨.ok, .bytes [0x01#8, 0xFF#8]⟩ ∧
    deRef [0x01#8, 0xFF#8] = some (.reset 255#8) := by decide +kernel
/-- V67b: a payload that stuffs but does not parse. -/
theorem test_decPkt_parse : (decodePacket Cfg.ref
    (frame 0x04#8 [0x02#8, 0x04#8, 0x01#8, 0x00#8] 0x28#8 0x22#8)).reply = ⟨.rejParse, .nothing⟩ := by
  decide +kernel
/-- V47: the frame made without a trailing delimiter, read with one. -/
theorem test_delimiter_mismatch :
    encodeFrame { Cfg.ref with trailingDelim := false } [0x01#8, 0xFF#8]
      = frame 0x03#8 [0x03#8, 0x01#8, 0xFF#8] 0x05#8 0x0D#8 ∧
    decodeFrame Cfg.ref (frame 0x03#8 [0x03#8, 0x01#8, 0xFF#8] 0x05#8 0x0D#8) = .rejected .rejStuff := by
  decide +kernel

/-- V55, V50, V51, V49: the four variants as `ENCODE P`. -/
theorem test_pktSensorData : encodeReply Cfg.ref (.sensorData 0xFFFFFFFF#32 (Vector.replicate 8 0#32))
    = ⟨.ok, .bytes (frame 0x27#8 ([0x01#8, 0x05#8, 0xFF#8, 0xFF#8, 0xFF#8, 0xFF#8] ++ List.replicate 32 1#8 ++ [0#8])
        0xD0#8 0x35#8)⟩ := by decide +kernel
theorem test_pktPing : encodeReply Cfg.ref (.ping 0x01020304#32)
    = ⟨.ok, .bytes (frame 0x07#8 [0x06#8, 0x02#8, 0x01#8, 0x02#8, 0x03#8, 0x04#8, 0x00#8] 0x17#8 0x5E#8)⟩ := by
  decide +kernel
theorem test_pktPong : encodeReply Cfg.ref (.pong 0#32)
    = ⟨.ok, .bytes (frame 0x07#8 [0x02#8, 0x03#8, 0x01#8, 0x01#8, 0x01#8, 0x01#8, 0x00#8] 0x92#8 0xCE#8)⟩ := by
  decide +kernel
theorem test_pktReset : encodeReply Cfg.ref (.reset 255#8) = ⟨.ok, .bytes rst255⟩ := by decide +kernel

/-! ## The sync detector -/

/-- The window trace of V72: the window slides, and the push of `3C` starts the candidate. -/
theorem test_syncPush_slides : (nextOf (State.push Cfg.ref
      { State.reset with sdWin := #v[0xA5#8, 0xA5#8, 0x5A#8, 0xC3#8], sdFill := 4 } 0x3C#8)).map
      (fun t => (t.sdState, t.sdFill, t.rxCnt, t.rxBuf.toList.take 4, t.replies.pc))
    = some (.collect, 0, 4, [0xA5#8, 0x5A#8, 0xC3#8, 0x3C#8], [⟨.pending, .nothing⟩]) := by decide
/-- V70, its last push: the 64th byte delivers the packet and the detector hunts again. -/
theorem test_syncPush_completes : (nextOf (State.push Cfg.ref
      { State.reset with
        sdState := .collect
        rxCnt := 63
        rxBuf := (Vector.replicate 64 0#8).mapIdx fun i _ => (rst255.take 63).getD i 0#8 } 0x3C#8)).map
      (fun t => (t.sdState, t.sdFill, t.rxCnt, t.replies.pc))
    = some (.hunt, 0, 0, [⟨.ok, .bytes [0x01#8, 0xFF#8]⟩]) := by decide +kernel

/-! ## Ports and faults -/

/-- V88: the fault is recorded, no cell changes. -/
theorem test_illegal_word : (nextOf (step (issued .PA (.cmd 0x1008#16 [])))).map
      (fun t => (t.pfault.pa, t.pfault.pb.set, t.cb, t.replies.pa))
    = some (⟨true, 0x8#4⟩, false, Vector.replicate 8 0#32, [⟨.errIllegal, .nothing⟩]) := by decide +kernel
/-- V96. -/
theorem test_every_push_is_legal :
    stepReply (issued .PC (.cmd 0x37FF#16 [])) .PC = some ⟨.pending, .nothing⟩ := by decide +kernel
/-- V97, and an illegal word at a faulted port (60_exceptions.md R185). -/
theorem test_faulted_port :
    stepReply (pcFaulted.placeRequest .PC (.cmd 0x3000#16 [])) .PC = some ⟨.errFaulted, .nothing⟩ ∧
    stepReply (pcFaulted.placeRequest .PC (.cmd 0x3800#16 [])) .PC = some ⟨.errFaulted, .nothing⟩ := by
  decide +kernel
/-- V98: the other ports carry on. -/
theorem test_other_ports_carry_on :
    (nextOf (step (pcFaulted.placeRequest .PA (.cmd 0x1000#16 [])))).map (·.cb[0]) = some 1#32 := by
  decide +kernel
/-- 60_exceptions.md R181: every status has a number of its own. -/
theorem test_status_codes : [Status.ok, .rejSize, .rejSync, .rejLen, .rejCrc, .rejStuff, .rejParse, .errOverflow,
    .errIllegal, .errOperand, .pending, .errFaulted].map Status.code
    = [0x0#4, 0x1#4, 0x2#4, 0x3#4, 0x4#4, 0x5#4, 0x6#4, 0x7#4, 0x8#4, 0x9#4, 0xA#4, 0xB#4] := by decide
/-- Log 14: an `ENCODE` of bytes that are no image, as `ENC.PKT` answers V55b; the port is not faulted. -/
theorem test_encode_of_no_packet :
    stepReply (issued .PC (.encode [0x04#8, 0x00#8])) .PC = some ⟨.errOperand, .nothing⟩ := by decide +kernel
/-- The host's fetch: the word is what the next step runs, also beside other waiting agents. -/
theorem test_withFetchWord :
    (nextOf (step (State.reset.withFetchWord 16 0x1003))).map (·.cb[3]) = some 1#32 ∧
    (nextOf (step ((issued .PC (.cmd 0x3000#16 [])).withFetchWord 16 0x1103))).map (·.cb[3])
      = some 0xFFFFFFFF#32 := by decide +kernel
/-- The end of a run (70_reset_and_hazards.md R214): at reset nothing is left to do; V92 is over but not good; a
hardware reset still due does not count (log 24). -/
theorem test_run_over : goodFinal State.reset = true ∧ runOver pcFaulted = true ∧ goodFinal pcFaulted = false ∧
    runOver (issued .PA (.cmd 0x1000#16 [])) = false ∧
    goodFinal { State.reset with resetsDue := 1 } = true := by decide
/-- A packet tag's row runs as the first instruction after reset. -/
theorem test_withFetchWord_tag :
    (nextOf (step (State.reset.withFetchWord 8 0x01))).isSome = true := by decide +kernel

/-! ## Witnesses: concrete states and operands that meet each statement's hypotheses -/

/-- Nothing is faulted at reset, so the statements about one operation at a port that is not faulted
(`CbIncAddsOne`, `CbDecSubtractsOne`, `CbRdReturnsCell`, `Crc16Answers`, `EncPktAnswers`, `DecPktAnswers`,
`PacketRoundTrip`, `PacketVariantsEncode`, `DecFrameAnswers`) have a witness. -/
theorem test_witness_unfaulted : ∀ p : Port, State.reset.faulted p = false := by
  intro p; cases p <;> rfl

theorem test_witness_CbIncAddsOne : (withCell 7 0x7FFFFFFF#32).faulted .PA = false := rfl
theorem test_witness_CbDecSubtractsOne : (withCell 7 0x80000000#32).faulted .PA = false := rfl
theorem test_witness_CbRdReturnsCell : (withCell 3 6#32).faulted .PB = false := rfl

theorem test_witness_CellHoldsNetCount :
    State.reset.faulted .PA = false ∧ State.reset.cb[0] = 0#32 ∧
    ∃ t, execAll [.cbInc 0, .cbRd 0, .cbInc 0, .cbDec 0] State.reset = .next t := ⟨rfl, rfl, _, rfl⟩

theorem test_witness_OnlyPortAWritesCells :
    (Instr.cbRd 3).port ≠ .PA ∧ ∃ t, exec (.cbRd 3) State.reset = .next t := ⟨by decide, _, rfl⟩

theorem test_witness_SnapBeginStep : State.reset.faulted .PB = false ∧ State.reset.snapActive = false := by decide

/-- All eight channels are left after the begin step, channels 0 and 7 among them. -/
theorem test_witness_SnapReadStep :
    State.reset.snapBegin.faulted .PB = false ∧ State.reset.snapBegin.snapActive = true ∧
    State.reset.snapBegin.snapTodo[0] = true ∧ State.reset.snapBegin.snapTodo[7] = true := by decide

theorem test_witness_SnapReadOrderIsOpen :
    State.reset.snapBegin.faulted .PB = false ∧ State.reset.snapBegin.snapActive = true ∧
    State.reset.snapBegin.snapTodo[(7 : Channel).val] = true := by decide

theorem test_witness_SnapReturnStep :
    let s : State := { State.reset with snapActive := true }
    s.faulted .PB = false ∧ s.snapActive = true ∧ ∀ j : Channel, s.snapTodo[j.val] = false := by decide

theorem test_witness_QuietSnapshotIsBank :
    (withCell 3 6#32).faulted .PB = false ∧ (withCell 3 6#32).snapActive = false := by decide

/-- The state after `k` steps of a snapshot of a quiet bank, its choices fixed. -/
def snapRun : Nat → State
  | 0 => { issued .PB (.cmd 0x2100#16 []) with choices := [6, 5, 4, 3, 2, 1, 0] }
  | k + 1 => (nextOf (step (snapRun k))).getD State.reset

theorem snapRun_succ {k : Nat} (h : (nextOf (step (snapRun k))).isSome = true) :
    step (snapRun k) = .next (snapRun (k + 1)) := by
  cases hs : step (snapRun k) with
  | next t => simp [snapRun, hs, nextOf]
  | fault r => simp [hs, nextOf] at h
  | refused r => simp [hs, nextOf] at h

theorem test_witness_SnapshotValuesWereHeld :
    (snapRun 0).snapActive = false ∧
    (∀ k, k < 9 → step (snapRun k) = .next (snapRun (k + 1))) ∧
    (∀ k, 0 < k → k ≤ 9 → (snapRun k).snapActive = true) ∧
    step (snapRun 9) = .next (snapRun 10) ∧
    (snapRun 10).replies.pb = ⟨.ok, .cells (Vector.replicate 8 0#32)⟩ :: (snapRun 9).replies.pb := by
  have hsome : ∀ k : Fin 10, (nextOf (step (snapRun k.val))).isSome = true := by decide +kernel
  have hact : ∀ k : Fin 10, 0 < k.val → (snapRun k.val).snapActive = true := by decide +kernel
  exact ⟨by decide, fun k hk => snapRun_succ (hsome ⟨k, by omega⟩),
    fun k h0 hk => hact ⟨k, by omega⟩ h0, snapRun_succ (hsome 9), by decide +kernel⟩

/-- One codec operation and one counter-bank operation. -/
theorem test_witness_CodecAndBankLeaveEachOtherUnchanged :
    (Instr.syncPush 0xA5#8).port = .PC ∧ (∃ t, exec (.syncPush 0xA5#8) State.reset = .next t) ∧
    (Instr.cbInc 7).port ≠ .PC ∧ ∃ t, exec (.cbInc 7) State.reset = .next t :=
  ⟨rfl, ⟨_, rfl⟩, by decide, _, rfl⟩

theorem test_witness_OtherPortsUnaffected : ∃ t, exec (.encFrame [0x01#8]) State.reset = .next t := ⟨_, rfl⟩

theorem test_witness_FaultedPortPerformsNothing :
    let s := pcFaulted.placeRequest .PC (.cmd 0x3000#16 [])
    s.nextAgent = some (.port .PC, s) ∧ portGet s.queue .PC = .cmd 0x3000#16 [] :: [] ∧
      (portGet s.pfault .PC).set = true := by decide

theorem test_witness_IllegalWordFaultsItsPort :
    let s := issued .PA (.cmd 0x1008#16 [])
    s.nextAgent = some (.port .PA, s) ∧ portGet s.queue .PA = .cmd 0x1008#16 [] :: [] ∧
      (portGet s.pfault .PA).set = false ∧ decode .PA (.cmd 0x1008#16 []) = .error .illegalWord := by decide

/-- A step of another port beside a faulted one, and the hardware reset that clears it. -/
theorem test_witness_OnlyResetClearsFault :
    (portGet pcFaulted.pfault .PC).set = true ∧
    (∃ t, step (pcFaulted.placeRequest .PA (.cmd 0x1000#16 [])) = .next t) ∧
    (∃ t, step { pcFaulted with resetsDue := 1 } = .next t) ∧
    ∃ u, ({ pcFaulted with resetsDue := 1 } : State).nextAgent = some (.reset, u) :=
  ⟨rfl, ⟨_, rfl⟩, ⟨_, rfl⟩, _, rfl⟩

/-- The ends of the ranges of legal words (30_encoding.md R61). -/
theorem test_legal_word_boundaries :
    decodes .PA (.cmd 0x0FFF#16 []) = false ∧ decodes .PA (.cmd 0x1000#16 []) = true ∧
    decodes .PA (.cmd 0x1007#16 []) = true ∧ decodes .PA (.cmd 0x10FF#16 []) = false ∧
    decodes .PA (.cmd 0x1107#16 []) = true ∧ decodes .PB (.cmd 0x2007#16 []) = true ∧
    decodes .PB (.cmd 0x2008#16 []) = false ∧ decodes .PC (.cmd 0x36FF#16 []) = false ∧
    decodes .PC (.cmd 0x3700#16 []) = true ∧ decodes .PC (.cmd 0x37FF#16 []) = true := by decide

/-- With an input string, and with none. -/
theorem test_witness_EncodeOfDecode :
    decode .PC (.cmd 0x3400#16 [7#8]) = .ok (.decFrame [7#8]) ∧ takesDin .PC 0x3400#16 = true ∧
    decode .PA (.cmd 0x1107#16 []) = .ok (.cbDec 7) ∧ takesDin .PA 0x1107#16 = false := by decide

theorem test_witness_WrongPortIsIllegal : Port.PB ≠ (Instr.cbInc 3).port ∧ Port.PA ≠ (Instr.pktReset 0#8).port := by
  decide

theorem test_witness_SerRefOfDeRef : deRef [0x01#8, 0xFF#8] = some (.reset 255#8) := by decide

/-- At 64 bytes and at 65. -/
theorem test_witness_Crc16Answers : State.reset.faulted .PC = false ∧
    (List.replicate 64 0#8).length ≤ 64 ∧ ¬ (List.replicate 65 0#8).length ≤ 64 := by decide

/-- The highest bit of a byte; then `RST255`, with both ends of each range of bytes. -/
theorem test_witness_CrcDetectsSingleBitFlip : 7 < 8 ∧ Cfg.ref.Lawful ∧
    decodeFrame Cfg.ref rst255 = .accepted [0x01#8, 0xFF#8] ∧ 0 < 4 ∧ 3 < 4 ∧
    (5 ≤ 5 ∧ 5 < 5 + (rst255.getD 4 0#8).toNat) ∧ (5 ≤ 8 ∧ 8 < 5 + (rst255.getD 4 0#8).toNat) :=
  ⟨by decide, Cfg.ref_lawful, by decide +kernel⟩

/-- V68: one bit flipped in the header, in the payload's first and last byte, in the checksum's two bytes. -/
theorem test_single_bit_flips :
    decodePacket Cfg.ref (rst255.set 3 0x3D#8) = .rejected .rejSync ∧
    decodePacket Cfg.ref (rst255.set 5 0x02#8) = .rejected .rejCrc ∧
    decodePacket Cfg.ref (rst255.set 8 0x80#8) = .rejected .rejCrc ∧
    decodePacket Cfg.ref (rst255.set 62 0xEA#8) = .rejected .rejCrc ∧
    decodePacket Cfg.ref (rst255.set 63 0xBC#8) = .rejected .rejCrc := by decide +kernel

theorem test_witness_CobsEncLengthAndContent : (List.replicate 253 0x01#8).length ≤ 253 := by rw [List.length_replicate]
theorem test_witness_CobsRoundTrip : (List.replicate 253 0x00#8).length ≤ 253 := by rw [List.length_replicate]
theorem test_witness_UnstuffOfStuff : ([0x11#8, 0x00#8] : List Byte).length ≤ 253 := by decide
theorem test_witness_CobsDecAcceptsOnlyImages :
    ([0x02#8, 0x11#8, 0x01#8] : List Byte).length ≤ 57 ∧ cobsDec [0x02#8, 0x11#8, 0x01#8] = some [0x11#8, 0x00#8] := by
  decide
theorem test_witness_CobsDecRefusesZero : 0x00#8 ∈ ([0x01#8, 0x00#8] : List Byte) ∧ ([] : List Byte) = [] := by
  decide

/-- Both sides of `MAX_RAW`, whatever the configuration (00_scope.md R7, R8). -/
theorem test_witness_CobsEncAnswers : State.reset.faulted .PC = false ∧
    ([] : List Byte).length ≤ Config.cfg.maxRaw ∧ ¬ (List.replicate 57 0x01#8).length ≤ Config.cfg.maxRaw := by
  refine ⟨rfl, Nat.zero_le _, ?_⟩
  have h := Config.cfg_lawful.maxLen
  simp only [List.length_replicate, Cfg.maxRaw]
  omega

/-- Both sides of `MAX_RAW`, whatever the configuration. -/
theorem test_witness_EncFrameAnswers : State.reset.faulted .PC = false ∧
    ([] : List Byte).length ≤ Config.cfg.maxRaw ∧ ¬ (List.replicate 57 0x01#8).length ≤ Config.cfg.maxRaw :=
  test_witness_CobsEncAnswers

/-- Both sides of `MAX_COBS_LEN`, whatever the configuration. -/
theorem test_witness_CobsDecAnswers : State.reset.faulted .PC = false ∧
    ([] : List Byte).length ≤ Config.cfg.maxCobsLen ∧
    ¬ (List.replicate 58 0x01#8).length ≤ Config.cfg.maxCobsLen := by
  refine ⟨rfl, Nat.zero_le _, ?_⟩
  have h := Config.cfg_lawful.maxLen
  simp only [List.length_replicate]
  omega

/-- The longest payload of `CFG_REF`. -/
theorem test_witness_EncodeFrameLayout :
    Cfg.ref.Lawful ∧ (List.replicate 55 0x00#8 : List Byte).length ≤ Cfg.ref.maxRaw := ⟨Cfg.ref_lawful, by decide⟩

theorem test_witness_FrameRoundTrip :
    Cfg.ref.Lawful ∧ ([] : List Byte).length ≤ Cfg.ref.maxRaw := ⟨Cfg.ref_lawful, by decide⟩

theorem test_witness_DecFrameAnswers : State.reset.faulted .PC = false := rfl
theorem test_witness_EncPktAnswers : State.reset.faulted .PC = false ∧ Config.cfg.de (Config.cfg.ser (.ping 0#32)) ≠ none ∧
    (Config.cfg.ser (.ping 0#32)).length ≤ Config.cfg.maxRaw :=
  ⟨rfl, by simp [Config.cfg_lawful.roundTrip], Config.cfg_lawful.budget _⟩
theorem test_witness_DecPktAnswers : State.reset.faulted .PC = false := rfl
theorem test_witness_PacketRoundTrip : State.reset.faulted .PC = false := rfl
theorem test_witness_PacketVariantsEncode : State.reset.faulted .PC = false := rfl

/-- 63 and 65 bytes. -/
theorem test_witness_SizeGuard : (rst255.take 63).length ≠ 64 ∧ (rst255 ++ [0#8]).length ≠ 64 := by decide

/-- The first and the last byte of the header. -/
theorem test_witness_HeaderGuard :
    (rst255.set 0 0xA4#8).length = 64 ∧ (rst255.set 0 0xA4#8).getD 0 0#8 ≠ Cfg.ref.syncWord[0] ∧
    (rst255.set 3 0x3D#8).length = 64 ∧ (rst255.set 3 0x3D#8).getD 3 0#8 ≠ Cfg.ref.syncWord[3] := by decide

/-- A length byte of 0 and of `MAX_COBS_LEN + 1`. -/
theorem test_witness_LengthGuard :
    (rst255.set 4 0x00#8).length = 64 ∧ (rst255.set 4 0x3A#8).length = 64 ∧
    (∀ i : Fin 4, (rst255.set 4 0x00#8).getD i.val 0#8 = Cfg.ref.syncWord[i.val]) ∧
    (∀ i : Fin 4, (rst255.set 4 0x3A#8).getD i.val 0#8 = Cfg.ref.syncWord[i.val]) ∧
    ((rst255.set 4 0x00#8).getD 4 0#8).toNat = 0 ∧
    ((rst255.set 4 0x3A#8).getD 4 0#8).toNat > Cfg.ref.maxCobsLen := by decide

/-- V61. -/
theorem test_witness_ChecksumGuard :
    let b := rst255.set 63 0xC3#8
    b.length = 64 ∧ (∀ i : Fin 4, b.getD i.val 0#8 = Cfg.ref.syncWord[i.val]) ∧
    1 ≤ (b.getD 4 0#8).toNat ∧ (b.getD 4 0#8).toNat ≤ Cfg.ref.maxCobsLen ∧
    (crc16 (b.take (5 + (b.getD 4 0#8).toNat))).toNat ≠ (b.getD 62 0#8).toNat * 256 + (b.getD 63 0#8).toNat := by
  decide +kernel

/-- A frame that passes the first four checks: V65 (its payload is malformed) and `RST255`. -/
theorem test_witness_PayloadDecides :
    ∀ b ∈ [frame 0x01#8 [0x00#8] 0x89#8 0x4E#8, rst255],
    b.length = 64 ∧ (∀ i : Fin 4, b.getD i.val 0#8 = Cfg.ref.syncWord[i.val]) ∧
    1 ≤ (b.getD 4 0#8).toNat ∧ (b.getD 4 0#8).toNat ≤ Cfg.ref.maxCobsLen ∧
    (crc16 (b.take (5 + (b.getD 4 0#8).toNat))).toNat = (b.getD 62 0#8).toNat * 256 + (b.getD 63 0#8).toNat := by
  decide +kernel

/-- V63: an accepted frame whose padding is not zero. -/
theorem test_witness_AcceptedFrameIsCanonical :
    Cfg.ref.Lawful ∧ decodeFrame Cfg.ref (rst255.set 20 0x77#8) = .accepted [0x01#8, 0xFF#8] :=
  ⟨Cfg.ref_lawful, by decide +kernel⟩

/-- `RST255` and V63. -/
theorem test_witness_PaddingNeverMatters :
    Cfg.ref.Lawful ∧ rst255.length = 64 ∧ (rst255.set 20 0x77#8).length = 64 ∧
    ∀ i, i < 64 → ¬ (5 + (rst255.getD 4 0#8).toNat ≤ i ∧ i < 62) →
      rst255.getD i 0#8 = (rst255.set 20 0x77#8).getD i 0#8 :=
  ⟨Cfg.ref_lawful, by decide, by decide, by decide +kernel⟩

/-- A window not yet full, and a full one. -/
theorem test_witness_SyncPushHunts :
    State.reset.faulted .PC = false ∧ State.reset.sdState = .hunt ∧ State.reset.sdFill.val < 4 ∧
    ({ State.reset with sdFill := 4 } : State).faulted .PC = false ∧
    ({ State.reset with sdFill := 4 } : State).sdState = .hunt := by decide

/-- The first byte after the header, and the 63rd. -/
theorem test_witness_SyncPushCollects :
    let s : State := { State.reset with sdState := .collect, rxCnt := 4 }
    let t : State := { State.reset with sdState := .collect, rxCnt := 62 }
    s.faulted .PC = false ∧ s.sdState = .collect ∧ (5 : Fin 65).val = s.rxCnt.val + 1 ∧ (5 : Fin 65).val < 64 ∧
    t.faulted .PC = false ∧ t.sdState = .collect ∧ (63 : Fin 65).val = t.rxCnt.val + 1 ∧ (63 : Fin 65).val < 64 := by
  decide

/-- The last byte of a candidate, and the full count that no run reaches. -/
theorem test_witness_SyncPushCompletes :
    let s : State := { State.reset with sdState := .collect, rxCnt := 63 }
    let t : State := { State.reset with sdState := .collect, rxCnt := 64 }
    s.faulted .PC = false ∧ s.sdState = .collect ∧ s.rxCnt.val = 63 ∧
    t.faulted .PC = false ∧ t.sdState = .collect ∧ t.rxCnt.val = 64 := by decide

/-- A candidate one byte short of complete, under the hardware's own configuration. -/
def oneByteShort : State :=
  { State.reset with
    sdState := .collect
    rxCnt := 63
    rxBuf := withHeader State.reset.rxBuf Config.cfg.syncWord }

theorem test_witness_SyncNeverRejectsSizeOrSync :
    oneByteShort.faulted .PC = false ∧ DetectorOk Config.cfg oneByteShort ∧
    ∃ t r, exec (.syncPush 0#8) oneByteShort = .next t ∧ t.replies.pc = r :: oneByteShort.replies.pc :=
  ⟨rfl, ⟨fun h => (by cases h), fun _ => ⟨by decide, by decide, rfl, withHeader_take _ _⟩⟩, _, _, rfl, rfl⟩

theorem test_witness_AlignedFrameIsDelivered :
    State.reset.faulted .PC = false ∧ State.reset.sdState = .hunt ∧ State.reset.sdFill.val = 0 := by decide

/-- A port that moves with a request that decodes, one with a request that does not, and hardware reset. -/
theorem test_witness_StepRunsDecodedInstr :
    let s := issued .PC (.cmd 0x3100#16 [7#8])
    let z := issued .PA (.cmd 0x1008#16 [])
    s.nextAgent = some (.port .PC, s) ∧ portGet s.queue .PC = .cmd 0x3100#16 [7#8] :: [] ∧
      decode .PC (.cmd 0x3100#16 [7#8]) = .ok (.cobsEnc [7#8]) ∧ z.nextAgent = some (.port .PA, z) ∧
      ({ State.reset with resetsDue := 1 } : State).nextAgent
        = some (.reset, { State.reset with resetsDue := 1 }) := by decide

/-- PA has an operation while a snapshot of PB's is in flight and a hardware reset is due. -/
def manyWait : State :=
  { (issued .PA (.cmd 0x1000#16 [])).placeRequest .PB (.cmd 0x2100#16 []) with
    snapActive := true
    snapTodo := Vector.replicate 8 true
    resetsDue := 1 }

/-- All may move; one port moves; the reset moves; nobody has a step to take. -/
theorem test_witness_AnyEnabledAgentMayMove :
    portGet manyWait.queue .PA ≠ [] ∧ portGet manyWait.queue .PB ≠ [] ∧ manyWait.resetsDue ≠ 0 ∧
    (∃ u, manyWait.nextAgent = some (.port .PB, u)) ∧
    (∃ u, ({ State.reset with resetsDue := 1 } : State).nextAgent = some (.reset, u)) ∧
    State.reset.nextAgent = none :=
  ⟨by decide, by decide, by decide, ⟨_, rfl⟩, ⟨_, rfl⟩, rfl⟩

/-- Reset in the middle of a snapshot, and with none in flight. -/
theorem test_witness_HardwareResetStep :
    (∃ u, ({ State.reset.snapBegin with resetsDue := 1 } : State).nextAgent = some (.reset, u) ∧
      u.snapActive = true) ∧
    ∃ u, ({ State.reset with resetsDue := 1 } : State).nextAgent = some (.reset, u) ∧ u.snapActive = false :=
  ⟨⟨_, rfl, rfl⟩, _, rfl, rfl⟩

/-- A snapshot in flight and a candidate one byte short, under the hardware's own configuration. -/
def midRun : State :=
  { oneByteShort with
    snapActive := true
    snapTodo := Vector.replicate 8 true
    queue := ⟨[], [.cmd 0x2100#16 []], []⟩ }

theorem midRun_inv : Inv midRun :=
  ⟨⟨fun h => (by cases h), fun _ => ⟨by decide, by decide, rfl, withHeader_take _ _⟩⟩, by decide,
    ⟨fun _ => by decide, fun h => by cases h⟩⟩

theorem test_witness_StepKeepsInvariant : Inv midRun ∧ ∃ t, step midRun = .next t := ⟨midRun_inv, _, rfl⟩

theorem test_witness_StepNeverStops : Inv midRun := midRun_inv

end Sys2Proof.Tests
end

section
/-! The family 10_state.md: the state at reset, and that no step stops the machine from a state of the
invariant. -/

namespace Sys2Proof.Machine

/-! ## No step stops the machine (10_state.md R22) -/

/-- The port guard adds no stop of its own. -/
theorem atPort_next {p : Port} {s : State} {f : State → Result} (h : ∃ t, f s = .next t) :
    ∃ t, atPort p s f = .next t := by
  cases hf : s.faulted p with
  | true => exact ⟨_, atPort_faulted hf f⟩
  | false => rwa [atPort_running hf]

/-- A push answers wherever `rx_buf[rx_cnt]` names a byte (43_sync.md R142; log 12). -/
theorem push_next {cfg : Cfg} {s : State} (b : Byte) (h : s.sdState = .collect → s.rxCnt.val < 64) :
    ∃ t, s.push cfg b = .next t := by
  unfold State.push
  cases hs : s.sdState with
  | hunt => exact ⟨_, rfl⟩
  | collect =>
    simp only [State.collectStep, h hs, dite_true]
    split
    · exact ⟨_, rfl⟩
    · exact ⟨_, rfl⟩

/-- No instruction stops where `rx_buf[rx_cnt]` names a byte: `SYNC.PUSH` is the only one that can. -/
theorem exec_next {s : State} (i : Instr) (h : s.sdState = .collect → s.rxCnt.val < 64) :
    ∃ t, exec i s = .next t := by
  cases i with
  | cbInc ch =>
    simp only [exec, execCbInc]
    exact atPort_next ⟨_, rfl⟩
  | cbDec ch =>
    simp only [exec, execCbDec]
    exact atPort_next ⟨_, rfl⟩
  | cbRd ch =>
    simp only [exec, execCbRd]
    exact atPort_next ⟨_, rfl⟩
  | cbSnap =>
    simp only [exec, execCbSnap]
    exact atPort_next ⟨_, rfl⟩
  | syncPush b =>
    simp only [exec, execSyncPush]
    exact atPort_next (push_next b h)
  | _ => exact codecOp_next _ s

/-- Settles O60: only a push into a full buffer stops, and the invariant keeps `rx_cnt` at most 63 in `COLLECT`
(43_sync.md R147 (b)); the choice of the agent leaves the detector alone. -/
theorem stepNeverStops : Obligations.StepNeverStops := by
  intro s ⟨⟨_, hcollect⟩, _, _⟩
  have hcnt : s.sdState = .collect → s.rxCnt.val < 64 := fun hs => by
    obtain ⟨_, hle, _⟩ := hcollect hs
    omega
  rcases step_cases s with
    ⟨_, e⟩ | ⟨p, u, r, rest, i, hagent, _, _, e⟩ | ⟨_, _, _, _, _, _, _, _, e⟩ | ⟨_, _, e⟩
  · exact ⟨_, e⟩
  · obtain ⟨_, c, d, rfl⟩ := nextAgent_frame hagent
    rw [e]
    exact exec_next i hcnt
  · exact ⟨_, e⟩
  · exact ⟨_, e⟩

/-! ## The state at reset (10_state.md R20) -/

@[simp] theorem reset_cb (i : Channel) : State.reset.cb[i.val] = 0#32 := Vector.getElem_replicate _

@[simp] theorem reset_snapTodo (i : Channel) : State.reset.snapTodo[i.val] = false := Vector.getElem_replicate _

@[simp] theorem reset_pfault (p : Port) : portGet State.reset.pfault p = ⟨false, 0#4⟩ := by
  cases p <;> rfl

/-- Settles O56. -/
theorem resetValues : Obligations.ResetValues :=
  ⟨reset_cb, rfl, reset_snapTodo, rfl, rfl, rfl, reset_pfault⟩

/-- The detector at reset hunts with an empty window (43_sync.md R147 (a)). -/
theorem reset_detectorOk (cfg : Cfg) : DetectorOk cfg State.reset := by
  constructor
  · intro _
    exact ⟨rfl, fun hfull => absurd hfull (by decide)⟩
  · intro hcollect
    cases hcollect

/-- No port is faulted at reset. -/
theorem reset_faultsOk : FaultsOk State.reset := by decide

/-- No snapshot is in flight at reset and no channel is left to read. -/
theorem reset_snapshotOk : SnapshotOk State.reset := ⟨fun hactive => (by cases hactive), fun _ => rfl⟩

/-- Settles O58, part by part: the detector, the faults, the snapshot. -/
theorem resetMeetsInvariant : Obligations.ResetMeetsInvariant :=
  ⟨reset_detectorOk Config.cfg, reset_faultsOk, reset_snapshotOk⟩

end Sys2Proof.Machine
end

section
/-! The family 20_memory.md: who writes the cells, which units an instruction leaves alone, and which agent may
move next. -/

namespace Sys2Proof.Machine

/-! ## The units an instruction leaves alone (20_memory.md R41, R46) -/

/-- A reply, returned or raised, leaves the counter bank alone (60_exceptions.md R190). -/
theorem respond_sameBank (s : State) (p : Port) (r : Reply) : SameBank s (s.respond p r) := by
  rcases respond_cases s p r with ⟨_, e⟩ | ⟨_, e⟩
  · simp [e, SameBank]
  · simp [e, SameBank]

/-- No codec operation changes the counter bank (20_memory.md R46): a push keeps to the detector, and the others
only reply. -/
theorem exec_sameBank {i : Instr} {s t : State} (hport : i.port = .PC) (h : exec i s = .next t) :
    SameBank s t := by
  rcases exec_cases h with
    ⟨_, rfl⟩ |
    ⟨_, ⟨_, rfl, _⟩ | ⟨_, rfl, _⟩ | ⟨_, rfl, _⟩ | ⟨rfl, _⟩ | ⟨_, _, hpush⟩ | ⟨_, _, r, rfl⟩⟩
  · simp [SameBank]
  · cases hport
  · cases hport
  · cases hport
  · cases hport
  · obtain ⟨hbank, _⟩ := push_frame hpush
    exact hbank
  · exact respond_sameBank s .PC r

/-- No counter-bank operation changes the detector (20_memory.md R46). -/
theorem exec_sameDetector {i : Instr} {s t : State} (hport : i.port ≠ .PC) (h : exec i s = .next t) :
    SameDetector s t := by
  rcases exec_cases h with
    ⟨_, rfl⟩ |
    ⟨_, ⟨_, _, rfl⟩ | ⟨_, _, rfl⟩ | ⟨_, _, rfl⟩ | ⟨_, rfl⟩ | ⟨_, rfl, _⟩ | ⟨hPC, _⟩⟩
  · simp [SameDetector]
  · simp [SameDetector]
  · simp [SameDetector]
  · simp [SameDetector]
  · obtain ⟨_, hdetector, _⟩ := snapStep_frame s
    exact hdetector
  · exact absurd rfl hport
  · exact absurd hPC hport

/-- Settles O12: the codec's half and the counter bank's half. -/
theorem codecAndBankLeaveEachOtherUnchanged : Obligations.CodecAndBankLeaveEachOtherUnchanged :=
  fun _ _ _ h => ⟨fun hport => exec_sameBank hport h, fun hport => exec_sameDetector hport h⟩

/-- Settles O4: at PC the whole bank stays, and at PB `CB.RD` only answers and a step of `CB.SNAP` only reads. -/
theorem onlyPortAWritesCells : Obligations.OnlyPortAWritesCells := by
  intro i s t hport h
  rcases exec_cases h with
    ⟨_, rfl⟩ | ⟨_, ⟨_, rfl, _⟩ | ⟨_, rfl, _⟩ | ⟨_, _, rfl⟩ | ⟨_, rfl⟩ | ⟨_, rfl, _⟩ | ⟨hPC, _⟩⟩
  · rfl
  · exact absurd rfl hport
  · exact absurd rfl hport
  · rfl
  · obtain ⟨hcb, _⟩ := snapStep_frame s
    exact hcb
  · obtain ⟨hcb, _⟩ := exec_sameBank rfl h
    exact hcb
  · obtain ⟨hcb, _⟩ := exec_sameBank hPC h
    exact hcb

/-! ## The next agent (20_memory.md R38, R40) -/

/-- Any agent with a step to take moves next under some answer to the open choice (20_memory.md R38). -/
theorem nextAgent_allowed {s : State} {a : Agent} (h : a ∈ s.enabledAgents) :
    ∃ c c', ({ s with choices := c } : State).nextAgent = some (a, { s with choices := c' }) :=
  pick_allowed s h

/-- No agent moves exactly when none has a step to take. -/
theorem nextAgent_eq_none {s : State} : s.nextAgent = none ↔ s.enabledAgents = [] := pick_eq_none

/-- No agent has a step to take exactly when every list is empty and no hardware reset is due (10_state.md R20;
log 8). -/
theorem enabledAgents_eq_nil {s : State} :
    s.enabledAgents = [] ↔ (∀ p : Port, portGet s.queue p = []) ∧ s.resetsDue = 0 := by
  constructor
  · intro h
    have hnone : ∀ a, a ∉ s.enabledAgents := List.eq_nil_iff_forall_not_mem.mp h
    exact ⟨fun p => not_not.mp (mt port_mem_enabledAgents.mpr (hnone _)),
      not_not.mp (mt reset_mem_enabledAgents.mpr (hnone _))⟩
  · rintro ⟨hq, hreset⟩
    refine List.eq_nil_iff_forall_not_mem.mpr fun a ha => ?_
    cases a with
    | port p => exact port_mem_enabledAgents.mp ha (hq p)
    | reset => exact reset_mem_enabledAgents.mp ha hreset

/-- Settles O55: having a step to take is membership in `enabledAgents`, and the choice is of any member and of no
other agent. -/
theorem anyEnabledAgentMayMove : Obligations.AnyEnabledAgentMayMove := by
  intro s
  refine ⟨fun p hq => ?_, fun hdue => ?_, fun p u h => ?_, fun u h => ?_, fun h => ?_⟩
  · exact nextAgent_allowed (port_mem_enabledAgents.mpr hq)
  · exact nextAgent_allowed (reset_mem_enabledAgents.mpr hdue)
  · exact port_mem_enabledAgents.mp (nextAgent_frame h).1
  · exact (nextAgent_reset h).1
  · exact enabledAgents_eq_nil.mp (nextAgent_eq_none.mp h)

/-- Where a port is chosen, the step is that port's (20_memory.md R38). -/
theorem step_of_nextAgent_port {s u : State} {p : Port} (h : s.nextAgent = some (.port p, u)) :
    step s = portStep u p := by
  simp [step, h]

/-- Settles O54: the frame of the choice, then the port's step on an instruction. -/
theorem stepRunsDecodedInstr : Obligations.StepRunsDecodedInstr := by
  refine ⟨fun s u a h => (nextAgent_frame h).2, fun s u p r rest i h hq hd => ?_⟩
  calc step s = portStep u p := step_of_nextAgent_port h
    _ = exec i u := portStep_instr hq hd

end Sys2Proof.Machine
end

section
/-! The family 30_encoding.md: the command words and the decoder, packet variants, and the layout of a frame. -/

namespace Sys2Proof

/-! ## The fields of a command word (30_encoding.md R56, R58) -/

theorem opcOf_toNat (word : Half) : (opcOf word).toNat = word.toNat / 256 := by
  have := word.isLt
  simp only [opcOf, BitVec.extractLsb'_toNat, Nat.shiftRight_eq_div_pow]
  omega

theorem argOf_toNat (word : Half) : (argOf word).toNat = word.toNat % 256 := by
  simp [argOf]

theorem cmdWord_toNat (opc arg : Byte) : (cmdWord opc arg).toNat = opc.toNat * 256 + arg.toNat := by
  rw [cmdWord, BitVec.toNat_append, ← Nat.shiftLeft_add_eq_or_of_lt arg.isLt, Nat.shiftLeft_eq]

@[simp] theorem opcOf_cmdWord (opc arg : Byte) : opcOf (cmdWord opc arg) = opc := by
  have := arg.isLt
  apply BitVec.eq_of_toNat_eq
  rw [opcOf_toNat, cmdWord_toNat]
  omega

@[simp] theorem argOf_cmdWord (opc arg : Byte) : argOf (cmdWord opc arg) = arg := by
  have := arg.isLt
  apply BitVec.eq_of_toNat_eq
  rw [argOf_toNat, cmdWord_toNat]
  omega

/-- A command word is its two fields and nothing more. -/
@[simp] theorem cmdWord_opcOf_argOf (word : Half) : cmdWord (opcOf word) (argOf word) = word := by
  apply BitVec.eq_of_toNat_eq
  rw [cmdWord_toNat, opcOf_toNat, argOf_toNat]
  omega

theorem opcOf_eq_and_argOf_eq_iff {word : Half} {opc arg : Byte} :
    opcOf word = opc ∧ argOf word = arg ↔ word = cmdWord opc arg := by
  constructor
  · rintro ⟨rfl, rfl⟩
    exact (cmdWord_opcOf_argOf word).symm
  · rintro rfl
    simp

@[simp] theorem channelArg_toNat (ch : Channel) : (channelArg ch).toNat = ch.val := by
  have hch : ch.val < 8 := ch.isLt
  simp only [channelArg, BitVec.toNat_setWidth, BitVec.toNat_ofFin]
  omega

/-- The reserved bits of a channel's argument are zero (30_encoding.md R58). -/
theorem channelArg_reserved : ∀ ch : Channel, (channelArg ch).extractLsb' 3 5 = 0#5 := by decide

theorem channel_of_channelArg : ∀ ch : Channel, ((channelArg ch).extractLsb' 0 3).toFin = ch := by decide

/-- An argument with zero reserved bits is its channel's (30_encoding.md R58). -/
theorem channelArg_of_reserved {arg : Byte} (h : arg.extractLsb' 3 5 = 0#5) :
    channelArg (arg.extractLsb' 0 3).toFin = arg := by
  have hnat := congrArg BitVec.toNat h
  have := arg.isLt
  apply BitVec.eq_of_toNat_eq
  simp only [BitVec.extractLsb'_toNat, Nat.shiftRight_eq_div_pow, BitVec.toNat_ofNat] at hnat
  simp only [channelArg_toNat, BitVec.val_toFin, BitVec.extractLsb'_toNat, Nat.shiftRight_eq_div_pow]
  omega

/-! ## What each port decodes (30_encoding.md R57 to R59) -/

theorem withChannel_eq_ok {arg : Byte} {op : Channel → Instr} {i : Instr} :
    withChannel arg op = .ok i ↔ ∃ ch, arg = channelArg ch ∧ op ch = i := by
  unfold withChannel
  constructor
  · intro h
    split at h
    case isTrue hreserved =>
      injection h with h
      exact ⟨_, (channelArg_of_reserved hreserved).symm, h⟩
    case isFalse => cases h
  · rintro ⟨ch, rfl, rfl⟩
    rw [if_pos (channelArg_reserved ch), channel_of_channelArg]

theorem withoutArg_eq_ok {arg : Byte} {i j : Instr} : withoutArg arg j = .ok i ↔ arg = 0#8 ∧ j = i := by
  unfold withoutArg
  split <;> simp_all

/-- The command words port PA decodes, each with its instruction (30_encoding.md R57, R58). -/
theorem decode_PA_eq_ok {word : Half} {din : List Byte} {i : Instr} :
    decode .PA (.cmd word din) = .ok i ↔
      (∃ ch, word = cmdWord 0x10#8 (channelArg ch) ∧ .cbInc ch = i) ∨
      (∃ ch, word = cmdWord 0x11#8 (channelArg ch) ∧ .cbDec ch = i) := by
  simp only [decode, decodePA, ← opcOf_eq_and_argOf_eq_iff]
  split_ifs <;> simp_all [withChannel_eq_ok]

/-- The command words port PB decodes, each with its instruction (30_encoding.md R57 to R59). -/
theorem decode_PB_eq_ok {word : Half} {din : List Byte} {i : Instr} :
    decode .PB (.cmd word din) = .ok i ↔
      (∃ ch, word = cmdWord 0x20#8 (channelArg ch) ∧ .cbRd ch = i) ∨
      (word = cmdWord 0x21#8 0#8 ∧ .cbSnap = i) := by
  simp only [decode, decodePB, ← opcOf_eq_and_argOf_eq_iff]
  split_ifs <;> simp_all [withChannel_eq_ok, withoutArg_eq_ok]

/-- The command words port PC decodes, each with its instruction and input string (30_encoding.md R57, R59). -/
theorem decode_PC_eq_ok {word : Half} {din : List Byte} {i : Instr} :
    decode .PC (.cmd word din) = .ok i ↔
      (word = cmdWord 0x30#8 0#8 ∧ .crc16 din = i) ∨ (word = cmdWord 0x31#8 0#8 ∧ .cobsEnc din = i) ∨
      (word = cmdWord 0x32#8 0#8 ∧ .cobsDec din = i) ∨ (word = cmdWord 0x33#8 0#8 ∧ .encFrame din = i) ∨
      (word = cmdWord 0x34#8 0#8 ∧ .decFrame din = i) ∨ (word = cmdWord 0x35#8 0#8 ∧ .encPkt din = i) ∨
      (word = cmdWord 0x36#8 0#8 ∧ .decPkt din = i) ∨
      (∃ b, word = cmdWord 0x37#8 b ∧ .syncPush b = i) := by
  simp only [decode, decodePC, ← opcOf_eq_and_argOf_eq_iff]
  split_ifs <;> simp_all [withoutArg_eq_ok]

/-- A packet's image decodes to its variant (42_frame.md R128; log 13). -/
theorem decode_serRef (packet : Packet) :
    decode .PC (.encode (serRef packet)) = .ok (Instr.ofPacket packet) := by
  simp [decode, deRef_serRef]

/-- Settles O18: a channel, a reserved argument, an input string, a byte, or a packet's image, each comes back. -/
theorem decodeOfEncode : Obligations.DecodeOfEncode := by
  intro i
  cases i with
  | cbInc ch => exact decode_PA_eq_ok.mpr (.inl ⟨ch, rfl, rfl⟩)
  | cbDec ch => exact decode_PA_eq_ok.mpr (.inr ⟨ch, rfl, rfl⟩)
  | cbRd ch => exact decode_PB_eq_ok.mpr (.inl ⟨ch, rfl, rfl⟩)
  | pktSensorData sequence counters => exact decode_serRef (.sensorData sequence counters)
  | pktReset channelId => exact decode_serRef (.reset channelId)
  | pktPing timestamp => exact decode_serRef (.ping timestamp)
  | pktPong timestamp => exact decode_serRef (.pong timestamp)
  | cbSnap => exact decode_PB_eq_ok.mpr (.inr ⟨rfl, rfl⟩)
  | _ => exact decode_PC_eq_ok.mpr (by simp)

/-- Settles O19: each port's inversion names the word; of PC's eight operations only the last, `SYNC.PUSH`, takes no
input string. -/
theorem encodeOfDecode : Obligations.EncodeOfDecode := by
  intro p word din i h
  cases p with
  | PA =>
    rcases decode_PA_eq_ok.mp h with ⟨ch, rfl, rfl⟩ | ⟨ch, rfl, rfl⟩ <;>
      exact ⟨rfl, [], rfl, by simp [takesDin]⟩
  | PB =>
    rcases decode_PB_eq_ok.mp h with ⟨ch, rfl, rfl⟩ | ⟨rfl, rfl⟩ <;>
      exact ⟨rfl, [], rfl, by simp [takesDin]⟩
  | PC =>
    rcases decode_PC_eq_ok.mp h with
      ⟨rfl, rfl⟩ | ⟨rfl, rfl⟩ | ⟨rfl, rfl⟩ | ⟨rfl, rfl⟩ | ⟨rfl, rfl⟩ | ⟨rfl, rfl⟩ | ⟨rfl, rfl⟩ | ⟨b, rfl, rfl⟩
    on_goal 8 => exact ⟨rfl, [], rfl, by simp [takesDin]⟩
    all_goals exact ⟨rfl, din, rfl, fun _ => rfl⟩

/-! ## The legal words of each port (30_encoding.md R61) -/

theorem decodes_iff {p : Port} {r : Request} : decodes p r = true ↔ ∃ i, decode p r = .ok i := by
  unfold decodes
  split <;> simp_all

theorem eq_cmdWord_iff {word : Half} {opc arg : Byte} :
    word = cmdWord opc arg ↔ word.toNat = opc.toNat * 256 + arg.toNat := by
  rw [← BitVec.toNat_inj, cmdWord_toNat]

/-- The words of an operation on a channel are eight in a row (30_encoding.md R58). -/
theorem exists_channel_cmdWord_iff {word : Half} {opc : Byte} :
    (∃ ch, word = cmdWord opc (channelArg ch)) ↔
      opc.toNat * 256 ≤ word.toNat ∧ word.toNat ≤ opc.toNat * 256 + 7 := by
  simp only [eq_cmdWord_iff, channelArg_toNat]
  constructor
  · rintro ⟨⟨ch, hch⟩, h⟩
    simp only [maxEncoders] at hch h
    omega
  · rintro ⟨hle, hge⟩
    exact ⟨⟨word.toNat - opc.toNat * 256, by simp only [maxEncoders]; omega⟩, by simp only; omega⟩

/-- The words of an operation whose every argument is legal are 256 in a row (30_encoding.md R59). -/
theorem exists_cmdWord_iff {word : Half} {opc : Byte} :
    (∃ b, word = cmdWord opc b) ↔ opc.toNat * 256 ≤ word.toNat ∧ word.toNat ≤ opc.toNat * 256 + 255 := by
  simp only [eq_cmdWord_iff]
  constructor
  · rintro ⟨b, h⟩
    have := b.isLt
    omega
  · rintro ⟨hle, hge⟩
    refine ⟨BitVec.ofNat 8 (word.toNat - opc.toNat * 256), ?_⟩
    rw [BitVec.toNat_ofNat]
    omega

theorem decodes_PA_iff {word : Half} {din : List Byte} :
    decodes .PA (.cmd word din) = true ↔
      (∃ ch, word = cmdWord 0x10#8 (channelArg ch)) ∨ (∃ ch, word = cmdWord 0x11#8 (channelArg ch)) := by
  simp [decodes_iff, decode_PA_eq_ok, exists_or]

theorem decodes_PB_iff {word : Half} {din : List Byte} :
    decodes .PB (.cmd word din) = true ↔
      (∃ ch, word = cmdWord 0x20#8 (channelArg ch)) ∨ word = cmdWord 0x21#8 0#8 := by
  simp [decodes_iff, decode_PB_eq_ok, exists_or]

theorem decodes_PC_iff {word : Half} {din : List Byte} :
    decodes .PC (.cmd word din) = true ↔
      (∃ opc ∈ [0x30#8, 0x31#8, 0x32#8, 0x33#8, 0x34#8, 0x35#8, 0x36#8], word = cmdWord opc 0#8) ∨
      (∃ b, word = cmdWord 0x37#8 b) := by
  simp [decodes_iff, decode_PC_eq_ok, exists_or, or_assoc]

/-- Settles O17: each operation's words, as an interval of the words' numbers. -/
theorem legalWordsOfEachPort : Obligations.LegalWordsOfEachPort := by
  intro word din
  refine ⟨?_, ?_, ?_⟩
  · rw [decodes_PA_iff, exists_channel_cmdWord_iff, exists_channel_cmdWord_iff]
    simp
  · rw [decodes_PB_iff, exists_channel_cmdWord_iff, eq_cmdWord_iff]
    simp
  · rw [decodes_PC_iff, exists_cmdWord_iff]
    simp [eq_cmdWord_iff]

/-! ## The wrong port (30_encoding.md R61; 92_eei_decisions.md D9) -/

/-- The top nibble of the operation codes of a port (92_eei_decisions.md D9). -/
def portNibble : Port → BitVec 4
  | .PA => 1#4
  | .PB => 2#4
  | .PC => 3#4

theorem portNibble_inj {p q : Port} : portNibble p = portNibble q ↔ p = q := by
  cases p <;> cases q <;> decide

theorem opcOf_nibble (word : Half) : (opcOf word).extractLsb' 4 4 = word.extractLsb' 12 4 := by
  simpa using (Laws.OpcodeNibbleNamesPort.cmdWord_nibble (opcOf word) (argOf word)).symm

/-- A command word whose nibble names another port is illegal: no operation code of the port has that nibble. -/
theorem decode_of_nibble_ne {p : Port} {word : Half} (h : word.extractLsb' 12 4 ≠ portNibble p)
    (din : List Byte) : decode p (.cmd word din) = .error .illegalWord := by
  have hopc : ∀ opc : Byte, opc.extractLsb' 4 4 = portNibble p → opcOf word ≠ opc := by
    rintro opc hnibble rfl
    exact h (opcOf_nibble word ▸ hnibble)
  cases p with
  | PA => simp (disch := decide) only [decode, decodePA, hopc, if_false]
  | PB => simp (disch := decide) only [decode, decodePB, hopc, if_false]
  | PC => simp (disch := decide) only [decode, decodePC, hopc, if_false]

/-- The word an instruction is issued as carries the nibble of its port, and a packet is issued at PC. -/
theorem encode_cases (i : Instr) :
    (∃ word din, encode i = .cmd word din ∧ word.extractLsb' 12 4 = portNibble i.port) ∨
    (∃ image, encode i = .encode image ∧ i.port = .PC) := by
  cases i with
  | pktSensorData sequence counters => exact .inr ⟨_, rfl, rfl⟩
  | pktReset channelId => exact .inr ⟨_, rfl, rfl⟩
  | pktPing timestamp => exact .inr ⟨_, rfl, rfl⟩
  | pktPong timestamp => exact .inr ⟨_, rfl, rfl⟩
  | _ => exact .inl ⟨_, _, rfl, Laws.OpcodeNibbleNamesPort.cmdWord_nibble _ _⟩

/-- Settles O20: the nibble of the word keeps it from the other ports, and a packet is a codec operation. -/
theorem wrongPortIsIllegal : Obligations.WrongPortIsIllegal := by
  intro i p hp
  rcases encode_cases i with ⟨word, din, he, hnibble⟩ | ⟨image, he, hPC⟩
  · rw [he]
    refine decode_of_nibble_ne ?_ din
    rw [hnibble, ne_eq, portNibble_inj]
    exact hp.symm
  · rw [he]
    cases p with
    | PA => rfl
    | PB => rfl
    | PC => exact absurd hPC.symm hp

/-- Settles O22: each clause is one word run through the decoder. -/
theorem sampleWordsDecode : Obligations.SampleWordsDecode := by
  unfold Obligations.SampleWordsDecode
  decide

end Sys2Proof

namespace Sys2Proof.Machine

/-! ## A packet handed over as `ENCODE P` (30_encoding.md R66; 42_frame.md R130) -/

/-- A packet variant is the codec operation `ENC.PKT` of its image (30_encoding.md R66; log 13). -/
theorem exec_ofPacket (packet : Packet) (s : State) :
    exec (Instr.ofPacket packet) s = codecOp (encodeReply Config.cfg packet) s := by
  cases packet <;> rfl

/-- The laws of 42_frame.md R126 leave `ENCODE P` no refusal and no fault: the image parses and fits. -/
theorem encodeReply_of_lawful {cfg : Cfg} (hcfg : cfg.Lawful) (packet : Packet) :
    encodeReply cfg packet = Reply.okWith (.bytes (encodeFrame cfg (cfg.ser packet))) := by
  have hfits : ¬ (cfg.ser packet).length > cfg.maxRaw := Nat.not_lt.mpr (hcfg.budget packet)
  simp [encodeReply, encPktReply, imageOrRefuse, hcfg.roundTrip, upToMaxRawOrFault, hfits]

/-- Settles O48: at a running port the whole effect of a codec operation is its reply. -/
theorem packetVariantsEncode : Obligations.PacketVariantsEncode := by
  intro packet s hs
  rw [exec_ofPacket, encodeReply_of_lawful Config.cfg_lawful, codecOp_running hs, respond_of_not_fault rfl]
  rfl

/-! ## Padding (30_encoding.md R62) -/

/-- A decode looks at the length, the header, the length byte, the checksummed bytes and the stored checksum, and at
nothing else (42_frame.md R115). -/
theorem decodeFrame_congr {cfg : Cfg} {b c : List Byte} (hlength : b.length = c.length)
    (hheader : b.take 4 = c.take 4) (hlen : frameLen b = frameLen c)
    (hbody : b.take (payOff + frameLen b) = c.take (payOff + frameLen b)) (hcrc : storedCrc b = storedCrc c) :
    decodeFrame cfg b = decodeFrame cfg c := by
  have hpay : (b.drop payOff).take (frameLen b) = (c.drop payOff).take (frameLen b) := by
    rw [List.take_drop, hbody, ← List.take_drop]
  unfold decodeFrame
  rw [hpay, hbody, hlength, hheader, hcrc, hlen]

theorem decodePacket_congr {cfg : Cfg} {b c : List Byte} (h : decodeFrame cfg b = decodeFrame cfg c) :
    decodePacket cfg b = decodePacket cfg c := by
  rw [decodePacket, decodePacket, h]

/-- Strings of one length that agree at every offset below `n` begin with the same `n` bytes. -/
theorem take_eq_of_getD {b c : List Byte} {n : Nat} (hlength : b.length = c.length)
    (h : ∀ i, i < n → i < b.length → b.getD i 0#8 = c.getD i 0#8) : b.take n = c.take n := by
  refine List.ext_getElem (by simp [hlength]) fun i hb hc => ?_
  have hi : i < n ∧ i < b.length := by simpa using hb
  have hic : i < c.length := hlength ▸ hi.2
  simpa [hi.2, hic] using h i hi.1 hi.2

/-- Settles O44: everything a decode looks at lies outside the padding. -/
theorem paddingNeverMatters : Obligations.PaddingNeverMatters := by
  intro cfg b c _ hb hc h
  have hlength : b.length = c.length := hb.trans hc.symm
  have hat : ∀ i, i < 64 → ¬ (5 + frameLen b ≤ i ∧ i < 62) → b.getD i 0#8 = c.getD i 0#8 := h
  have htake : ∀ n, n ≤ 5 + frameLen b → b.take n = c.take n :=
    fun n hn => take_eq_of_getD hlength fun i hin hib => hat i (by omega) (by omega)
  have hlen : frameLen b = frameLen c := congrArg BitVec.toNat (hat 4 (by omega) (by omega))
  have hcrc : storedCrc b = storedCrc c := by
    simp only [storedCrc, crcOff_eq, hat 62 (by omega) (by omega), hat 63 (by omega) (by omega)]
  have hframe := decodeFrame_congr (cfg := cfg) hlength (htake 4 (by omega)) hlen (htake _ le_rfl) hcrc
  exact ⟨hframe, decodePacket_congr hframe⟩

/-! ## The layout of an encoded frame (30_encoding.md R50, R51; 42_frame.md R111, R113) -/

/-- Stuffing adds the first code byte and keeps one byte for each byte of the payload (41_cobs.md R93). -/
theorem cobsEncFrom_length (run d : List Byte) : (cobsEncFrom run d).length = run.length + d.length + 1 := by
  induction d generalizing run with
  | nil => simp [cobsEncFrom, cobsRun]
  | cons b rest ih =>
    rw [cobsEncFrom]
    split
    · simp only [cobsRun, List.length_append, List.length_cons, List.length_nil, ih]
      omega
    · simp only [ih, List.length_append, List.length_cons, List.length_nil]
      omega

/-- The stuffed length (41_cobs.md R97, R101 (e)). -/
theorem stuff_length (cfg : Cfg) (d : List Byte) : (stuff cfg d).length = d.length + 1 + cfg.dlm := by
  unfold stuff Cfg.dlm
  split <;> simp [cobsEnc, cobsEncFrom_length]

/-- A payload that fits is stuffed to at most `MAX_COBS_LEN` bytes (00_scope.md R8). -/
theorem stuff_length_le {cfg : Cfg} (hcfg : cfg.Lawful) {d : List Byte} (hd : d.length ≤ cfg.maxRaw) :
    (stuff cfg d).length ≤ cfg.maxCobsLen := by
  have hmin := hcfg.minLen
  rw [stuff_length]
  unfold Cfg.maxRaw at hd
  omega

theorem frameBody_length (cfg : Cfg) (stuffed : List Byte) :
    (frameBody cfg stuffed).length = 5 + stuffed.length := by
  simp only [frameBody, List.length_append, List.length_cons, Vector.length_toList]
  omega

section
variable {cfg : Cfg} {d : List Byte} (hcfg : cfg.Lawful) (hd : d.length ≤ cfg.maxRaw)
include hcfg hd

/-- The checksummed bytes of a payload that fits end at or before the checksum (00_scope.md R7). -/
theorem frameBody_stuff_length_le : (frameBody cfg (stuff cfg d)).length ≤ 62 := by
  have := stuff_length_le hcfg hd
  have := hcfg.maxLen
  rw [frameBody_length]
  omega

theorem encodeFrame_length : (encodeFrame cfg d).length = 64 := by
  have := frameBody_stuff_length_le hcfg hd
  simp only [encodeFrame, be16, List.length_append, List.length_replicate, List.length_cons, List.length_nil,
    crcOff_eq]
  omega

/-- The stored checksum stands at offset 62, high byte first (30_encoding.md R50; 20_memory.md R32). -/
theorem encodeFrame_drop_crcOff : (encodeFrame cfg d).drop 62 = be16 (crc16 (frameBody cfg (stuff cfg d))) := by
  have := frameBody_stuff_length_le hcfg hd
  refine List.drop_left' ?_
  rw [List.length_append, List.length_replicate, crcOff_eq]
  omega

end

/-- A frame begins with its checksummed bytes (30_encoding.md R51). -/
theorem encodeFrame_take_body (cfg : Cfg) (d : List Byte) :
    (encodeFrame cfg d).take (frameBody cfg (stuff cfg d)).length = frameBody cfg (stuff cfg d) := by
  simp [encodeFrame]

/-- The parts of a frame in their order (30_encoding.md R50): header, length, payload, padding, checksum. -/
theorem encodeFrame_eq (cfg : Cfg) (d : List Byte) :
    encodeFrame cfg d = cfg.syncWord.toList ++ BitVec.ofNat 8 (stuff cfg d).length :: (stuff cfg d ++
      (List.replicate (62 - (frameBody cfg (stuff cfg d)).length) 0#8 ++
        be16 (crc16 (frameBody cfg (stuff cfg d))))) := by
  simp [encodeFrame, frameBody]

theorem encodeFrame_take_four (cfg : Cfg) (d : List Byte) : (encodeFrame cfg d).take 4 = cfg.syncWord.toList := by
  rw [encodeFrame_eq]
  exact List.take_left' (by simp)

theorem encodeFrame_frameLen {cfg : Cfg} {d : List Byte} (h : (stuff cfg d).length < 256) :
    frameLen (encodeFrame cfg d) = (stuff cfg d).length := by
  rw [frameLen, encodeFrame_eq, List.getD_append_right _ _ _ _ (by simp)]
  simpa using h

theorem encodeFrame_drop_five_take (cfg : Cfg) (d : List Byte) :
    ((encodeFrame cfg d).drop 5).take (stuff cfg d).length = stuff cfg d := by
  have hheader : cfg.syncWord.toList.drop 5 = [] := List.drop_eq_nil_of_le (by simp)
  simp [encodeFrame_eq, List.drop_append, hheader]

/-- The padding is zero (42_frame.md R113). -/
theorem encodeFrame_padding {cfg : Cfg} {d : List Byte} {i : Nat}
    (hlo : (frameBody cfg (stuff cfg d)).length ≤ i) (hhi : i < 62) (x : Byte) :
    (encodeFrame cfg d).getD i x = 0#8 := by
  have hpad : i < (frameBody cfg (stuff cfg d) ++
      List.replicate (crcOff - (frameBody cfg (stuff cfg d)).length) 0#8).length := by
    simp only [List.length_append, List.length_replicate, crcOff_eq]
    omega
  rw [encodeFrame, List.getD_append _ _ _ _ hpad, List.getD_append_right _ _ _ _ hlo,
    List.getD_replicate _ (by rw [crcOff_eq]; omega)]

/-- Settles O34: the fields of the frame, offset by offset. -/
theorem encodeFrameLayout : Obligations.EncodeFrameLayout := by
  intro cfg d hcfg hd F L
  have hL : (stuff cfg d).length = L := stuff_length cfg d
  have hmax : L ≤ cfg.maxCobsLen := hL ▸ stuff_length_le hcfg hd
  have hbody : (frameBody cfg (stuff cfg d)).length = 5 + L := hL ▸ frameBody_length cfg _
  have htake : F.take (5 + L) = frameBody cfg (stuff cfg d) := hbody ▸ encodeFrame_take_body cfg d
  have hcrc : ∀ k, F.getD (62 + k) 0#8 = (be16 (crc16 (F.take (5 + L)))).getD k 0#8 := fun k => by
    rw [htake, ← encodeFrame_drop_crcOff hcfg hd]
    simp [F]
  have hmaxLen := hcfg.maxLen
  refine ⟨encodeFrame_length hcfg hd, encodeFrame_take_four cfg d, ?_, by omega, hmax, ?_, ?_, hcrc 0, hcrc 1⟩
  · rw [← hL]
    exact encodeFrame_frameLen (by omega)
  · rw [← hL]
    exact encodeFrame_drop_five_take cfg d
  · exact fun i hlo hhi => encodeFrame_padding (hbody ▸ hlo) hhi _

end Sys2Proof.Machine
end

section
/-! The family 40_checksum.md: the laws of the checksum, the operation `CRC16`, and the single-bit flips a decode
rejects. -/

namespace Sys2Proof.Machine

/-! ## The checksum as a map of its register (40_checksum.md R82) -/

theorem crc16_append (s t : List Byte) : crc16 (s ++ t) = t.foldl crcByte (crc16 s) := List.foldl_append

/-- The polynomial's top bit is set, so the top bit of a shifted register is the bit that fell out. -/
theorem crcShift_getLsbD_15 (crc : Half) : (crcShift crc).getLsbD 15 = crc.getLsbD 0 := by
  unfold crcShift
  split
  case isTrue hlow => simp [hlow]
  case isFalse hlow => simpa using hlow

/-- No shift loses a bit: the one that falls out is told by the top bit of the result. -/
theorem crcShift_injective : Function.Injective crcShift := by
  intro x y h
  have hlow : x.getLsbD 0 = y.getLsbD 0 := by rw [← crcShift_getLsbD_15, h, crcShift_getLsbD_15]
  have hhigh : x >>> 1 = y >>> 1 := by
    unfold crcShift at h
    rw [← hlow] at h
    split at h
    · exact (BitVec.xor_left_inj _).mp h
    · exact h
  refine BitVec.eq_of_getLsbD_eq fun i _ => ?_
  cases i with
  | zero => exact hlow
  | succ i => simpa [Nat.add_comm] using congrArg (·.getLsbD i) hhigh

theorem crcShifts_injective (n : Nat) : Function.Injective (crcShifts n) := by
  induction n with
  | zero => exact Function.injective_id
  | succ n ih => exact ih.comp crcShift_injective

/-- A byte taken in loses nothing of the register. -/
theorem crcByte_left_injective (b : Byte) : Function.Injective (crcByte · b) :=
  fun _ _ h => (BitVec.xor_left_inj _).mp (crcShifts_injective 8 h)

/-- A byte taken in is told by the register it leaves. -/
theorem crcByte_right_injective (crc : Half) : Function.Injective (crcByte crc) := fun b b' h => by
  have hwide : b.setWidth 16 = b'.setWidth 16 := (BitVec.xor_right_inj _).mp (crcShifts_injective 8 h)
  simpa using congrArg (BitVec.setWidth 8) hwide

theorem foldl_crcByte_injective (t : List Byte) : Function.Injective (t.foldl crcByte) := by
  induction t with
  | nil => exact Function.injective_id
  | cons b rest ih => exact ih.comp (crcByte_left_injective b)

/-- Strings that differ in one byte have different checksums. -/
theorem crc16_one_byte_ne {b b' : Byte} (h : b' ≠ b) (a c : List Byte) :
    crc16 (a ++ b' :: c) ≠ crc16 (a ++ b :: c) := by
  rw [crc16_append, crc16_append]
  exact fun e => h (crcByte_right_injective _ (foldl_crcByte_injective c e))

theorem crc16_set_ne {s : List Byte} {i : Nat} {x : Byte} (hi : i < s.length) (hx : x ≠ s.getD i 0#8) :
    crc16 (s.set i x) ≠ crc16 s := by
  rw [List.getD_eq_getElem _ _ hi] at hx
  have hs : s = s.take i ++ s[i] :: s.drop (i + 1) := by simp
  rw [List.set_eq_take_append_cons_drop, if_pos hi]
  exact fun e => crc16_one_byte_ne hx _ _ (e.trans (congrArg crc16 hs))

/-! ## Leading zeros and the residue (40_checksum.md R83) -/

/-- Settles O24: a zero byte leaves the register at its initial value 0. -/
theorem crcIgnoresLeadingZeros : Obligations.CrcIgnoresLeadingZeros := by
  have hzero : crcByte 0x0000#16 0x00#8 = 0x0000#16 := by decide
  intro n s
  induction n with
  | zero => rfl
  | succ n ih =>
    calc crc16 (List.replicate (n + 1) 0x00#8 ++ s)
        = (List.replicate n 0x00#8 ++ s).foldl crcByte (crcByte 0x0000#16 0x00#8) := rfl
      _ = crc16 (List.replicate n 0x00#8 ++ s) := by rw [hzero, crc16]
      _ = crc16 s := ih

/-- As long as zeros fall out, the polynomial plays no part. -/
theorem crcShifts_of_low_zero {n : Nat} {crc : Half} (h : ∀ i < n, crc.getLsbD i = false) :
    crcShifts n crc = crc >>> n := by
  induction n generalizing crc with
  | zero => simp [crcShifts]
  | succ n ih =>
    have hshift : crcShift crc = crc >>> 1 := by
      rw [crcShift, h 0 (by omega)]
      rfl
    have hnext : ∀ i < n, (crc >>> 1).getLsbD i = false := fun i hi => by
      simpa [Nat.add_comm] using h (i + 1) (by omega)
    rw [crcShifts, hshift, ih hnext, ← BitVec.shiftRight_add, Nat.add_comm]

/-- The register's own low byte, taken in, cancels it and moves the high byte down. -/
theorem crcByte_low (crc : Half) : crcByte crc (crc.extractLsb' 0 8) = crc >>> 8 := by
  have hlow : ∀ i < 8, (crc ^^^ (crc.extractLsb' 0 8).setWidth 16).getLsbD i = false := by
    intro i hi
    have : i < 16 := by omega
    simp [*]
  rw [crcByte, crcShifts_of_low_zero hlow]
  refine BitVec.eq_of_getLsbD_eq fun i _ => ?_
  simp

/-- Settles O25: the two bytes cancel the register's low half, then its high half. -/
theorem crcResidueIsZero : Obligations.CrcResidueIsZero := by
  intro s
  have hhigh : (crc16 s >>> 8).extractLsb' 0 8 = (crc16 s).extractLsb' 8 8 := by
    refine BitVec.eq_of_getLsbD_eq fun i _ => ?_
    simp
  calc crc16 (s ++ [(crc16 s).extractLsb' 0 8, (crc16 s).extractLsb' 8 8])
      = crcByte (crcByte (crc16 s) ((crc16 s).extractLsb' 0 8)) ((crc16 s).extractLsb' 8 8) := crc16_append _ _
    _ = crc16 s >>> 8 >>> 8 := by rw [crcByte_low, ← hhigh, crcByte_low]
    _ = 0x0000#16 := by rw [← BitVec.shiftRight_add]; exact BitVec.ushiftRight_eq_zero le_rfl

/-! ## The operation `CRC16` (40_checksum.md R84) -/

theorem upToOrRefuse_eq (limit : Nat) (din : List Byte) (r : Reply) :
    upToOrRefuse limit din r = if din.length ≤ limit then r else Reply.only .errOperand := by
  simp only [upToOrRefuse, gt_iff_lt, ← not_le, ite_not]

/-- The operand check answers with no fault of its own (30_encoding.md R60). -/
theorem upToOrRefuse_not_fault {r : Reply} (h : r.status.isFault = false) (limit : Nat) (din : List Byte) :
    (upToOrRefuse limit din r).status.isFault = false := by
  rw [upToOrRefuse_eq]
  split
  · exact h
  · rfl

/-- Settles O23: no reply to `CRC16` is a fault, so at a running port the whole effect is the reply. -/
theorem crc16Answers : Obligations.Crc16Answers := by
  intro din s hs
  have hexec : exec (.crc16 din) s = codecOp (crc16Reply din) s := rfl
  rw [hexec, codecOp_running hs, crc16Reply, respond_of_not_fault (upToOrRefuse_not_fault rfl _ _),
    upToOrRefuse_eq]
  rfl

/-! ## The checks of a decode, one by one (42_frame.md R115 to R121) -/

/-- A frame is accepted when it passes all five checks, and only then. -/
theorem decodeFrame_eq_accepted_iff {cfg : Cfg} {b d : List Byte} : decodeFrame cfg b = .accepted d ↔
    b.length = 64 ∧ b.take 4 = cfg.syncWord.toList ∧ (frameLen b ≠ 0 ∧ frameLen b ≤ cfg.maxCobsLen) ∧
      crc16 (b.take (5 + frameLen b)) = storedCrc b ∧
      unstuff cfg ((b.drop 5).take (frameLen b)) = some d := by
  unfold decodeFrame
  split_ifs with hlength hheader hlen hcrc
  · simp [hlength]
  · simp [hheader]
  · exact iff_of_false (by simp) fun ⟨_, _, ⟨hpos, hmax⟩, _⟩ => by omega
  · simp [hcrc]
  · cases hpay : unstuff cfg ((b.drop payOff).take (frameLen b)) with
    | none => simp_all
    | some d' => simp_all

/-- A wrong header rejects a frame of 64 bytes (42_frame.md R118). -/
theorem decodeFrame_eq_rejSync {cfg : Cfg} {b : List Byte} (hlength : b.length = 64)
    (hheader : b.take 4 ≠ cfg.syncWord.toList) : decodeFrame cfg b = .rejected .rejSync := by
  simp [decodeFrame, hlength, hheader]

/-- After the first three checks a wrong checksum rejects (42_frame.md R120). -/
theorem decodeFrame_eq_rejCrc {cfg : Cfg} {b : List Byte} (hlength : b.length = 64)
    (hheader : b.take 4 = cfg.syncWord.toList) (hlen : frameLen b ≠ 0 ∧ frameLen b ≤ cfg.maxCobsLen)
    (hcrc : crc16 (b.take (5 + frameLen b)) ≠ storedCrc b) : decodeFrame cfg b = .rejected .rejCrc := by
  simp [decodeFrame, hlength, hheader, hlen, hcrc]

/-- What rejects a frame rejects it as a packet's (42_frame.md R131). -/
theorem decodePacket_of_rejected {cfg : Cfg} {b : List Byte} {why : Status}
    (h : decodeFrame cfg b = .rejected why) : decodePacket cfg b = .rejected why := by
  simp [decodePacket, h]

/-! ## One flipped bit (40_checksum.md R83 (f), R87) -/

theorem flipBit_ne {k : Nat} (hk : k < 8) (b : Byte) : b ^^^ BitVec.twoPow 8 k ≠ b := fun h => by
  simpa [hk] using congrArg (·.getLsbD k) h

theorem ofBe16_toNat (hi lo : Byte) : (ofBe16 hi lo).toNat = hi.toNat * 256 + lo.toNat := by
  have := hi.isLt
  have := lo.isLt
  simp only [ofBe16, BitVec.toNat_add, BitVec.toNat_shiftLeft, BitVec.toNat_setWidth, Nat.shiftLeft_eq]
  omega

/-- The stored checksum tells its two bytes (30_encoding.md R52). -/
theorem ofBe16_inj {hi hi' lo lo' : Byte} : ofBe16 hi lo = ofBe16 hi' lo' ↔ hi = hi' ∧ lo = lo' := by
  have := lo.isLt
  have := lo'.isLt
  simp only [← BitVec.toNat_inj, ofBe16_toNat]
  omega

section
variable {b : List Byte} {i : Nat} {x : Byte}

theorem getD_set_of_ne {j : Nat} (h : i ≠ j) : (b.set i x).getD j 0#8 = b.getD j 0#8 := by
  simp [h]

/-- A changed header byte changes the header. -/
theorem take_four_set_ne (hi : i < 4) (hlength : b.length = 64) (hx : x ≠ b.getD i 0#8) :
    (b.set i x).take 4 ≠ b.take 4 := fun h => by
  have hat : ((b.set i x).take 4).getD i 0#8 = (b.take 4).getD i 0#8 := by rw [h]
  have hib : i < b.length := by omega
  exact hx (by simpa [hi, hib] using hat)

/-- A changed byte of the stored checksum changes the stored checksum. -/
theorem storedCrc_set_ne (hi : i = 62 ∨ i = 63) (hlength : b.length = 64) (hx : x ≠ b.getD i 0#8) :
    storedCrc (b.set i x) ≠ storedCrc b := by
  rw [storedCrc, storedCrc, crcOff_eq, ne_eq, ofBe16_inj]
  rintro ⟨hhigh, hlow⟩
  rcases hi with rfl | rfl
  · exact hx (by simpa [hlength] using hhigh)
  · exact hx (by simpa [hlength] using hlow)

theorem storedCrc_set (hi : i < 62) : storedCrc (b.set i x) = storedCrc b := by
  have h62 : i ≠ 62 := by omega
  have h63 : i ≠ 63 := by omega
  simp only [storedCrc, crcOff_eq, getD_set_of_ne h62, getD_set_of_ne h63]

/-- A changed byte past the length byte leaves the first three checks as they are, so the checksum decides. -/
theorem decodeFrame_set_eq_rejCrc {cfg : Cfg} {d : List Byte} (h : decodeFrame cfg b = .accepted d) (hi : 5 ≤ i)
    (hcrc : crc16 ((b.set i x).take (5 + frameLen b)) ≠ storedCrc (b.set i x)) :
    decodeFrame cfg (b.set i x) = .rejected .rejCrc := by
  obtain ⟨hlength, hheader, hlen, _⟩ := decodeFrame_eq_accepted_iff.mp h
  have hlenSet : frameLen (b.set i x) = frameLen b := congrArg BitVec.toNat (getD_set_of_ne (by simp; omega))
  refine decodeFrame_eq_rejCrc (by simpa using hlength) ?_ (hlenSet ▸ hlen) (hlenSet ▸ hcrc)
  rwa [List.take_set_of_le (by omega)]

end

section
variable {cfg : Cfg} {F d : List Byte} {i : Nat} {x : Byte}
variable (hF : decodeFrame cfg F = .accepted d) (hx : x ≠ F.getD i 0#8)
include hF hx

/-- Any change of one header byte of a valid frame is `REJ_SYNC`. -/
theorem decodeFrame_set_header (hi : i < 4) : decodeFrame cfg (F.set i x) = .rejected .rejSync := by
  obtain ⟨hlength, hheader, _⟩ := decodeFrame_eq_accepted_iff.mp hF
  refine decodeFrame_eq_rejSync (by simpa using hlength) ?_
  rw [← hheader]
  exact take_four_set_ne hi hlength hx

/-- Any change of one byte of the stored checksum of a valid frame is `REJ_CRC`: the recomputed one stays. -/
theorem decodeFrame_set_checksum (hcfg : cfg.Lawful) (hi : i = 62 ∨ i = 63) :
    decodeFrame cfg (F.set i x) = .rejected .rejCrc := by
  obtain ⟨hlength, _, ⟨_, hle⟩, hcrc, _⟩ := decodeFrame_eq_accepted_iff.mp hF
  have := hcfg.maxLen
  refine decodeFrame_set_eq_rejCrc hF (by omega) ?_
  rw [List.take_set_of_le (by omega), hcrc]
  exact (storedCrc_set_ne hi hlength hx).symm

/-- Any change of one byte of the payload of a valid frame is `REJ_CRC`: the stored checksum stays. -/
theorem decodeFrame_set_payload (hcfg : cfg.Lawful) (hlo : 5 ≤ i) (hhi : i < 5 + frameLen F) :
    decodeFrame cfg (F.set i x) = .rejected .rejCrc := by
  obtain ⟨hlength, _, ⟨_, hle⟩, hcrc, _⟩ := decodeFrame_eq_accepted_iff.mp hF
  have := hcfg.maxLen
  refine decodeFrame_set_eq_rejCrc hF hlo ?_
  rw [storedCrc_set (by omega), ← hcrc, List.take_set]
  refine crc16_set_ne (by simp; omega) ?_
  simpa [hhi] using hx

end

/-- Settles O26: a flipped bit changes its byte, and any change of one byte is found by the check that reads it. -/
theorem crcDetectsSingleBitFlip : Obligations.CrcDetectsSingleBitFlip := by
  refine ⟨fun a c b k hk => crc16_one_byte_ne (flipBit_ne hk b) a c, ?_⟩
  intro cfg F d i k hcfg hF hk G
  have hx : F.getD i 0#8 ^^^ BitVec.twoPow 8 k ≠ F.getD i 0#8 := flipBit_ne hk _
  constructor
  · intro hi
    have hrej : decodeFrame cfg G = .rejected .rejSync := decodeFrame_set_header hF hx hi
    exact ⟨hrej, decodePacket_of_rejected hrej⟩
  · intro hi
    have hrej : decodeFrame cfg G = .rejected .rejCrc := by
      rcases hi with ⟨hlo, hhi⟩ | hi
      · exact decodeFrame_set_payload hF hx hcfg hlo hhi
      · exact decodeFrame_set_checksum hF hx hcfg hi
    exact ⟨hrej, decodePacket_of_rejected hrej⟩

end Sys2Proof.Machine
end

section
/-! The family 41_cobs.md: the rounds of the stuffing's encoder and decoder, their laws, and the operations
`COBS.ENC` and `COBS.DEC`. -/

namespace Sys2Proof.Machine

/-! ## One run behind its code byte (41_cobs.md R91, R92) -/

theorem cobsRun_append (run t : List Byte) :
    cobsRun run ++ t = BitVec.ofNat 8 (run.length + 1) :: (run ++ t) := rfl

/-- The code byte tells how far the next one is (41_cobs.md R92). -/
theorem codeByte_toNat {n : Nat} (h : n < 255) : (BitVec.ofNat 8 (n + 1)).toNat = n + 1 := by
  rw [BitVec.toNat_ofNat]
  omega

/-- A code byte is at least 1 (41_cobs.md R93 (b)). -/
theorem codeByte_ne_delim {n : Nat} (h : n < 255) : BitVec.ofNat 8 (n + 1) ≠ delim := by
  rw [ne_eq, ← BitVec.toNat_inj, codeByte_toNat h]
  exact Nat.succ_ne_zero n

/-- Only a run of 254 bytes has the code byte `0xFF` (41_cobs.md R94). -/
theorem codeByte_eq_ff_iff {n : Nat} (h : n < 255) : BitVec.ofNat 8 (n + 1) = 0xFF#8 ↔ n = 254 := by
  rw [← BitVec.toNat_inj, codeByte_toNat h]
  exact Nat.succ_inj

theorem delim_not_mem_cobsRun {run : List Byte} (hlen : run.length < 255) (hrun : delim ∉ run) :
    delim ∉ cobsRun run :=
  List.not_mem_cons_of_ne_of_not_mem (codeByte_ne_delim hlen).symm hrun

/-! ## The encoder (41_cobs.md R91, R93) -/

theorem delim_not_mem_concat {run : List Byte} {b : Byte} (hrun : delim ∉ run) (hb : b ≠ delim) :
    delim ∉ run ++ [b] := by
  simpa [hrun] using hb.symm

/-- Bytes that are not zero join the open run. -/
theorem cobsEncFrom_append {r : List Byte} (hr : delim ∉ r) (run d : List Byte) :
    cobsEncFrom run (r ++ d) = cobsEncFrom (run ++ r) d := by
  induction r generalizing run with
  | nil => simp
  | cons b r ih =>
    obtain ⟨hb, hr⟩ := List.ne_and_not_mem_of_not_mem_cons hr
    rw [List.cons_append, cobsEncFrom, if_neg (Ne.symm hb), ih hr]
    simp

/-- A payload without a zero is one run. -/
theorem cobsEnc_run {run : List Byte} (hrun : delim ∉ run) : cobsEnc run = cobsRun run := by
  simpa [cobsEnc, cobsEncFrom] using cobsEncFrom_append hrun [] []

/-- The first zero of a payload closes the first run. -/
theorem cobsEnc_run_append_delim {run : List Byte} (hrun : delim ∉ run) (rest : List Byte) :
    cobsEnc (run ++ delim :: rest) = cobsRun run ++ cobsEnc rest := by
  simp [cobsEnc, cobsEncFrom, cobsEncFrom_append hrun]

theorem cobsEncFrom_ne_nil (run d : List Byte) : cobsEncFrom run d ≠ [] := by
  rw [← List.length_pos_iff, cobsEncFrom_length]
  exact Nat.succ_pos _

/-- Where every code byte fits a byte, no zero is left. -/
theorem delim_not_mem_cobsEncFrom {run d : List Byte} (hrun : delim ∉ run) (hlen : run.length + d.length < 255) :
    delim ∉ cobsEncFrom run d := by
  induction run, d using cobsEncFrom.induct with
  | case1 run => exact delim_not_mem_cobsRun hlen hrun
  | case2 run rest ih =>
    rw [List.length_cons] at hlen
    rw [cobsEncFrom, if_pos rfl, List.mem_append, not_or]
    exact ⟨delim_not_mem_cobsRun (by omega) hrun, ih List.not_mem_nil (by simp; omega)⟩
  | case3 run b rest hb ih =>
    rw [cobsEncFrom, if_neg hb]
    exact ih (delim_not_mem_concat hrun hb) (by simp at hlen ⊢; omega)

/-- Settles O27: a payload of 253 bytes leaves every code byte below `0xFF`. -/
theorem cobsEncLengthAndContent : Obligations.CobsEncLengthAndContent := by
  intro d hd
  have hzero : delim ∉ cobsEnc d := delim_not_mem_cobsEncFrom List.not_mem_nil (by simp; omega)
  refine ⟨by simp [cobsEnc, cobsEncFrom_length], ?_, cobsEncFrom_ne_nil [] d⟩
  rintro b hb rfl
  exact hzero hb

/-! ## The decoder (41_cobs.md R95, R96) -/

/-- One round of the decoder takes one run: the stream may end behind it, or the rest follows after the zero
that closed it, which code `0xFF` leaves out (41_cobs.md R94). -/
theorem cobsDecFrom_cobsRun_append {run : List Byte} (hlen : run.length < 255) (hrun : delim ∉ run) (fuel : Nat)
    (t : List Byte) :
    cobsDecFrom (fuel + 1) (cobsRun run ++ t) =
      if t = [] then some run
      else (cobsDecFrom fuel t).map (run ++ (if run.length = 254 then [] else [delim]) ++ ·) := by
  have hfits : ¬ run.length + 1 > (run ++ t).length + 1 := by simp
  have hdata : ¬ run.contains delim = true := by simpa using hrun
  rw [cobsRun_append, cobsDecFrom, if_neg (codeByte_ne_delim hlen), codeByte_toNat hlen, if_neg hfits,
    Nat.add_sub_cancel, List.take_left, if_neg hdata, List.drop_left]
  simp only [codeByte_eq_ff_iff hlen]
  cases t with
  | nil => rfl
  | cons next rest => rfl

/-- A stream that decodes is not empty and passes the three tests of 41_cobs.md R96, so it begins with a run behind
its code byte. -/
theorem eq_cobsRun_append_of_cobsDecFrom {fuel : Nat} {s d : List Byte} (h : cobsDecFrom (fuel + 1) s = some d) :
    ∃ run t, s = cobsRun run ++ t ∧ run.length < 255 ∧ delim ∉ run := by
  cases s with
  | nil => cases h
  | cons c tail =>
    simp only [cobsDecFrom, Option.ite_none_left_eq_some] at h
    obtain ⟨hcode, hover, hdata, _⟩ := h
    have hpos : c.toNat ≠ 0 := fun h0 => hcode (BitVec.eq_of_toNat_eq h0)
    have hc := c.isLt
    have hlen : (tail.take (c.toNat - 1)).length + 1 = c.toNat := by
      rw [List.length_take]
      omega
    refine ⟨tail.take (c.toNat - 1), tail.drop (c.toNat - 1), ?_, by omega, by simpa using hdata⟩
    rw [cobsRun_append, hlen, List.take_append_drop, BitVec.ofNat_toNat, BitVec.setWidth_eq]

/-- What one round of a decoder that accepts its stream has done: it took the last run, or a run and went on. -/
theorem cobsDecFrom_some_cases {fuel : Nat} {s d : List Byte} (h : cobsDecFrom (fuel + 1) s = some d) :
    ∃ run, run.length < 255 ∧ delim ∉ run ∧
      ((s = cobsRun run ∧ d = run) ∨
        ∃ t out, s = cobsRun run ++ t ∧ cobsDecFrom fuel t = some out ∧
          d = run ++ (if run.length = 254 then [] else [delim]) ++ out) := by
  obtain ⟨run, t, rfl, hlen, hrun⟩ := eq_cobsRun_append_of_cobsDecFrom h
  rw [cobsDecFrom_cobsRun_append hlen hrun] at h
  refine ⟨run, hlen, hrun, ?_⟩
  by_cases ht : t = []
  · rw [if_pos ht] at h
    exact .inl ⟨by simp [ht], (Option.some.inj h).symm⟩
  · rw [if_neg ht] at h
    obtain ⟨out, hout, rfl⟩ := Option.map_eq_some_iff.mp h
    exact .inr ⟨t, out, rfl, hout, rfl⟩

/-- The decoder accepts no stream that holds a zero (41_cobs.md R96). -/
theorem delim_not_mem_of_cobsDecFrom {n : Nat} {s d : List Byte} (h : cobsDecFrom n s = some d) : delim ∉ s := by
  induction n generalizing s d with
  | zero => cases h
  | succ n ih =>
    obtain ⟨run, hlen, hrun, ⟨rfl, _⟩ | ⟨t, out, rfl, hout, _⟩⟩ := cobsDecFrom_some_cases h
    · exact delim_not_mem_cobsRun hlen hrun
    · rw [List.mem_append, not_or]
      exact ⟨delim_not_mem_cobsRun hlen hrun, ih hout⟩

/-- Settles O30: an accepted stream holds no zero, and the empty one gives the decoder no round. -/
theorem cobsDecRefusesZero : Obligations.CobsDecRefusesZero := by
  intro s
  constructor
  · intro hzero
    exact Option.eq_none_iff_forall_ne_some.mpr fun d h => delim_not_mem_of_cobsDecFrom h hzero
  · rintro rfl
    rfl

/-! ## The round trip, both ways (41_cobs.md R101) -/

/-- Decoding what the encoder's loop makes of the open run and the bytes to come gives both back: each round of the
decoder undoes the closing of one run. -/
theorem cobsDecFrom_cobsEncFrom {run d : List Byte} {fuel : Nat} (hrun : delim ∉ run)
    (hlen : run.length + d.length ≤ 253) (hfuel : d.length < fuel) :
    cobsDecFrom fuel (cobsEncFrom run d) = some (run ++ d) := by
  induction run, d using cobsEncFrom.induct generalizing fuel with
  | case1 run =>
    obtain ⟨fuel, rfl⟩ := Nat.exists_eq_add_one.mpr hfuel
    rw [cobsEncFrom, ← List.append_nil (cobsRun run), cobsDecFrom_cobsRun_append (by simp at hlen; omega) hrun]
    simp
  | case2 run rest ih =>
    rw [List.length_cons] at hlen hfuel
    obtain ⟨fuel, rfl⟩ := Nat.exists_eq_add_one.mpr (Nat.zero_lt_of_lt hfuel)
    have hrest : cobsDecFrom fuel (cobsEncFrom [] rest) = some rest :=
      ih List.not_mem_nil (by simp; omega) (by omega)
    rw [cobsEncFrom, if_pos rfl, cobsDecFrom_cobsRun_append (by omega) hrun, if_neg (cobsEncFrom_ne_nil [] rest),
      hrest, if_neg (by omega)]
    simp
  | case3 run b rest hb ih =>
    rw [List.length_cons] at hlen hfuel
    rw [cobsEncFrom, if_neg hb, ih (delim_not_mem_concat hrun hb) (by simp; omega) (by omega)]
    simp

/-- Settles O28: the stream has one byte more than the payload, which is fuel enough. -/
theorem cobsRoundTrip : Obligations.CobsRoundTrip := by
  intro d hd
  refine cobsDecFrom_cobsEncFrom List.not_mem_nil (by simpa using hd) ?_
  rw [cobsEnc, cobsEncFrom_length]
  omega

/-- A stream too short for the code byte `0xFF` is the image of what it decodes to: each round of the decoder names
the run that the encoder closes. -/
theorem cobsEnc_of_cobsDecFrom {n : Nat} {s d : List Byte} (hs : s.length ≤ 254) (h : cobsDecFrom n s = some d) :
    cobsEnc d = s := by
  induction n generalizing s d with
  | zero => cases h
  | succ n ih =>
    obtain ⟨run, _, hrun, ⟨rfl, rfl⟩ | ⟨t, out, rfl, hout, rfl⟩⟩ := cobsDecFrom_some_cases h
    · exact cobsEnc_run hrun
    · rw [cobsRun_append, List.length_cons, List.length_append] at hs
      rw [if_neg (by omega), List.append_assoc, List.singleton_append, cobsEnc_run_append_delim hrun,
        ih (by omega) hout]

/-- Settles O29: no stream of 57 bytes has room for a run of 254. -/
theorem cobsDecAcceptsOnlyImages : Obligations.CobsDecAcceptsOnlyImages :=
  fun _ _ hs h => cobsEnc_of_cobsDecFrom (by omega) h

/-- Settles O31: the trailing delimiter that `Stuff` puts on, `Unstuff` checks and takes off (41_cobs.md R97, R98). -/
theorem unstuffOfStuff : Obligations.UnstuffOfStuff := by
  intro cfg d hd
  refine ⟨?_, stuff_length cfg d⟩
  unfold unstuff stuff
  cases cfg.trailingDelim with
  | true => simpa using cobsRoundTrip d hd
  | false => simpa using cobsRoundTrip d hd

/-! ## The operations `COBS.ENC` and `COBS.DEC` (41_cobs.md R99, R100) -/

theorem upToMaxRawOrFault_eq (cfg : Cfg) (din : List Byte) (r : Reply) :
    upToMaxRawOrFault cfg din r = if din.length ≤ cfg.maxRaw then r else Reply.only .errOverflow := by
  simp only [upToMaxRawOrFault, gt_iff_lt, ← not_le, ite_not]

/-- Settles O32: a payload that fits is answered; a longer one raises `ERR_OVERFLOW`, with its code. -/
theorem cobsEncAnswers : Obligations.CobsEncAnswers := by
  intro din s hs
  have hexec : exec (.cobsEnc din) s = codecOp (cobsEncReply Config.cfg din) s := rfl
  rw [hexec, codecOp_running hs, cobsEncReply, upToMaxRawOrFault_eq]
  split
  · rw [respond_of_not_fault rfl]
    rfl
  · rw [respond_of_fault rfl]
    rfl

/-- The reply to `COBS.DEC`: the raw bytes, `REJ_STUFF`, or `ERR_OPERAND` (41_cobs.md R100). -/
theorem cobsDecReply_cases (cfg : Cfg) (din : List Byte) :
    (cfg.maxCobsLen < din.length ∧ cobsDecReply cfg din = Reply.only .errOperand) ∨
    (din.length ≤ cfg.maxCobsLen ∧ unstuff cfg din = none ∧ cobsDecReply cfg din = Reply.only .rejStuff) ∨
    (din.length ≤ cfg.maxCobsLen ∧
      ∃ d, unstuff cfg din = some d ∧ cobsDecReply cfg din = Reply.okWith (.bytes d)) := by
  rw [cobsDecReply, upToOrRefuse_eq]
  rcases Nat.lt_or_ge cfg.maxCobsLen din.length with hlong | hfits
  · exact .inl ⟨hlong, if_neg (by omega)⟩
  · rw [if_pos hfits]
    cases hd : unstuff cfg din with
    | none => exact .inr (.inl ⟨hfits, rfl, rfl⟩)
    | some d => exact .inr (.inr ⟨hfits, d, rfl, rfl⟩)

/-- Settles O33: none of the three replies is a fault. -/
theorem cobsDecAnswers : Obligations.CobsDecAnswers := by
  intro din s hs
  have hexec : exec (.cobsDec din) s = codecOp (cobsDecReply Config.cfg din) s := rfl
  rw [hexec, codecOp_running hs]
  rcases cobsDecReply_cases Config.cfg din with ⟨hlong, e⟩ | ⟨hfits, hd, e⟩ | ⟨hfits, d, hd, e⟩
  · rw [e, respond_of_not_fault rfl, if_neg (by omega)]
    rfl
  · rw [e, respond_of_not_fault rfl, if_pos hfits, hd]
    rfl
  · rw [e, respond_of_not_fault rfl, if_pos hfits, hd]
    rfl

end Sys2Proof.Machine
end

section
/-! The family 42_frame.md: the packet images' inverse, the round trip of a frame and its converse, the checks of a
decode, and the operations `ENC.FRAME`, `DEC.FRAME`, `ENC.PKT` and `DEC.PKT`. -/

namespace Sys2Proof

/-! ## Packet images (42_frame.md R127, R128) -/

theorem append_byte_toNat {w : Nat} (x : BitVec w) (b : Byte) : (x ++ b).toNat = x.toNat * 256 + b.toNat := by
  rw [BitVec.toNat_append, ← Nat.shiftLeft_add_eq_or_of_lt b.isLt, Nat.shiftLeft_eq]

theorem ofBe32_toNat (b3 b2 b1 b0 : Byte) :
    (ofBe32 b3 b2 b1 b0).toNat = ((b3.toNat * 256 + b2.toNat) * 256 + b1.toNat) * 256 + b0.toNat := by
  rw [← append_byte_toNat, ← append_byte_toNat, ← append_byte_toNat]
  rfl

theorem be32_ofBe32 (b3 b2 b1 b0 : Byte) : be32 (ofBe32 b3 b2 b1 b0) = [b3, b2, b1, b0] := by
  have := b3.isLt
  have := b2.isLt
  have := b1.isLt
  have := b0.isLt
  simp only [be32, List.cons.injEq, ← BitVec.toNat_inj, BitVec.extractLsb'_toNat, ofBe32_toNat,
    Nat.shiftRight_eq_div_pow, and_true]
  omega

/-- The fields of a byte string, written out again, are that byte string. -/
theorem flatMap_be32_of_be32Fields {body : List Byte} {vs : List Word} (h : be32Fields body = some vs) :
    vs.flatMap be32 = body := by
  induction body using be32Fields.induct generalizing vs with
  | case1 =>
    obtain rfl : [] = vs := by simpa [be32Fields] using h
    rfl
  | case2 b3 b2 b1 b0 rest ih =>
    obtain ⟨ws, hws, rfl⟩ : ∃ ws, be32Fields rest = some ws ∧ ofBe32 b3 b2 b1 b0 :: ws = vs := by
      simpa [be32Fields] using h
    rw [List.flatMap_cons, be32_ofBe32, ih hws]
    rfl
  | case3 body hnil hfour => simp [be32Fields] at h

theorem serRef_of_sensorDataOf {vs : List Word} {packet : Packet} (h : sensorDataOf vs = some packet) :
    serRef packet = 0x00#8 :: vs.flatMap be32 := by
  unfold sensorDataOf at h
  split at h <;> cases h
  rfl

/-- Settles O21: for each tag the body has just the fields of its variant, and they are written back as they were. -/
theorem serRefOfDeRef : Obligations.SerRefOfDeRef := by
  intro d packet h
  cases d with
  | nil => cases h
  | cons tag body =>
    simp only [deRef] at h
    split_ifs at h with hsensor hreset hping hpong
    · obtain ⟨vs, hfields, hpacket⟩ := Option.bind_eq_some_iff.mp h
      rw [serRef_of_sensorDataOf hpacket, flatMap_be32_of_be32Fields hfields, hsensor]
    · split at h <;> cases h
      rw [hreset, serRef]
    · split at h <;> cases h
      rw [hping, serRef, be32_ofBe32]
    · split at h <;> cases h
      rw [hpong, serRef, be32_ofBe32]

end Sys2Proof

namespace Sys2Proof.Machine

/-! ## What a decode reads (30_encoding.md R51, R52) -/

/-- The header test of a frame of 64 bytes, byte by byte (42_frame.md R118). -/
theorem take_four_eq_syncWord_iff {cfg : Cfg} {b : List Byte} (hlength : b.length = 64) :
    b.take 4 = cfg.syncWord.toList ↔ ∀ i : Fin 4, b.getD i.val 0#8 = cfg.syncWord[i.val] := by
  rw [List.ext_getElem_iff]
  constructor
  · rintro ⟨_, h⟩ i
    have hat := h i.val (by simp; omega) (by simp)
    simpa [hlength, show i.val < 64 by omega] using hat
  · intro h
    refine ⟨by simp [hlength], fun i _ hi => ?_⟩
    have hi4 : i < 4 := by simpa using hi
    simpa [hlength, show i < 64 by omega] using h ⟨i, hi4⟩

/-- The stored checksum is big-endian (42_frame.md R120). -/
theorem storedCrc_toNat (b : List Byte) :
    (storedCrc b).toNat = (b.getD 62 0#8).toNat * 256 + (b.getD 63 0#8).toNat := ofBe16_toNat _ _

theorem ofBe16_be16 (v : Half) : ofBe16 (v.extractLsb' 8 8) (v.extractLsb' 0 8) = v := by
  have := v.isLt
  apply BitVec.eq_of_toNat_eq
  simp only [ofBe16_toNat, BitVec.extractLsb'_toNat, Nat.shiftRight_eq_div_pow]
  omega

section
variable {b : List Byte} (hlength : b.length = 64) (hfits : 5 + frameLen b ≤ 64)
include hlength hfits

theorem payload_length : ((b.drop 5).take (frameLen b)).length = frameLen b := by
  simp only [List.length_take, List.length_drop]
  omega

/-- The checksummed bytes of a frame with the right header are the header, the length and the payload. -/
theorem take_body_eq_frameBody {cfg : Cfg} (hheader : b.take 4 = cfg.syncWord.toList) :
    b.take (5 + frameLen b) = frameBody cfg ((b.drop 5).take (frameLen b)) := by
  have hfive : b.take 5 = cfg.syncWord.toList ++ [b.getD 4 0#8] := by
    rw [List.take_succ_eq_append_getElem (by omega), hheader]
    simp [hlength]
  rw [frameBody, payload_length hlength hfits, List.take_add, hfive]
  simp [frameLen]

end

/-- Strings that begin with the same `n` bytes agree at every offset below `n`. -/
theorem getD_eq_of_take_eq {b c : List Byte} {n i : Nat} (h : b.take n = c.take n) (hi : i < n) :
    b.getD i 0#8 = c.getD i 0#8 := by
  have hat : (b.take n).getD i 0#8 = (c.take n).getD i 0#8 := by rw [h]
  simpa [List.getD_eq_getElem?_getD, List.getElem?_take, hi] using hat

/-! ## The round trip of a frame and its converse (42_frame.md R124) -/

/-- A frame stores the checksum of its first `5 + L` bytes (30_encoding.md R51). -/
theorem storedCrc_encodeFrame {cfg : Cfg} {d : List Byte} (hcfg : cfg.Lawful) (hd : d.length ≤ cfg.maxRaw) :
    storedCrc (encodeFrame cfg d) = crc16 ((encodeFrame cfg d).take (5 + (d.length + 1 + cfg.dlm))) := by
  obtain ⟨_, _, _, _, _, _, _, hhigh, hlow⟩ := encodeFrameLayout cfg d hcfg hd
  rw [storedCrc, crcOff_eq, hhigh, hlow, ofBe16_be16]

/-- Settles O42: the fields of an encoded frame pass the five checks, and its payload unstuffs to `d`. -/
theorem frameRoundTrip : Obligations.FrameRoundTrip := by
  intro cfg d hcfg hd
  obtain ⟨hlength, hheader, hlen, hpos, hmax, hpay, _⟩ := encodeFrameLayout cfg d hcfg hd
  have hframeLen : frameLen (encodeFrame cfg d) = d.length + 1 + cfg.dlm := hlen
  have hmaxLen := hcfg.maxLen
  rw [decodeFrame_eq_accepted_iff, hframeLen, hpay]
  exact ⟨hlength, hheader, ⟨by omega, hmax⟩, (storedCrc_encodeFrame hcfg hd).symm,
    (unstuffOfStuff cfg d (by omega)).1⟩

/-- `Unstuff` accepts only what `Stuff` writes (41_cobs.md R101 (d)). -/
theorem stuff_of_unstuff {cfg : Cfg} {s d : List Byte} (hs : s.length ≤ 57) (h : unstuff cfg s = some d) :
    stuff cfg d = s := by
  unfold unstuff at h
  unfold stuff
  split_ifs at h ⊢ with hdelim hlast
  · have hdrop : s.dropLast.length ≤ 57 := by
      rw [List.length_dropLast]
      omega
    rw [cobsDecAcceptsOnlyImages _ _ hdrop h]
    exact List.dropLast_append_getLast? _ hlast
  · exact cobsDecAcceptsOnlyImages _ _ hs h

/-- An accepted frame has the checksummed bytes and the stored checksum of its payload's encoding: the payload
stands stuffed in it, and fits. -/
theorem encodeFrame_of_accepted {cfg : Cfg} {b d : List Byte} (hcfg : cfg.Lawful)
    (h : decodeFrame cfg b = .accepted d) :
    b.take (5 + frameLen b) = (encodeFrame cfg d).take (5 + frameLen b) ∧
      storedCrc b = storedCrc (encodeFrame cfg d) := by
  obtain ⟨hlength, hheader, ⟨_, hmax⟩, hcrc, hpay⟩ := decodeFrame_eq_accepted_iff.mp h
  have hmaxLen := hcfg.maxLen
  have hpayLen := payload_length hlength (by omega)
  have hstuff : stuff cfg d = (b.drop 5).take (frameLen b) := stuff_of_unstuff (by omega) hpay
  have hL : d.length + 1 + cfg.dlm = frameLen b := by rw [← stuff_length, hstuff, hpayLen]
  have hd : d.length ≤ cfg.maxRaw := by
    unfold Cfg.maxRaw
    omega
  have hbody : b.take (5 + frameLen b) = (encodeFrame cfg d).take (5 + frameLen b) := by
    rw [take_body_eq_frameBody hlength (by omega) hheader, ← hstuff, ← encodeFrame_take_body, frameBody_length,
      stuff_length, hL]
  exact ⟨hbody, by rw [storedCrc_encodeFrame hcfg hd, hL, ← hbody, hcrc]⟩

/-- Settles O43: outside the padding a byte is a checksummed one or one of the stored checksum. -/
theorem acceptedFrameIsCanonical : Obligations.AcceptedFrameIsCanonical := by
  intro cfg b d hcfg h i hi hpad
  change ¬ (5 + frameLen b ≤ i ∧ i < 62) at hpad
  obtain ⟨hbody, hcrc⟩ := encodeFrame_of_accepted hcfg h
  obtain ⟨hhigh, hlow⟩ := ofBe16_inj.mp hcrc
  rcases (by omega : i < 5 + frameLen b ∨ i = 62 ∨ i = 63) with hin | rfl | rfl
  · exact getD_eq_of_take_eq hbody hin
  · exact hhigh
  · exact hlow

/-! ## The checks of a decode, in their order (42_frame.md R115, R117 to R121, R129) -/

theorem decodeFrame_eq_rejSize {cfg : Cfg} {b : List Byte} (hlength : b.length ≠ 64) :
    decodeFrame cfg b = .rejected .rejSize := by
  simp [decodeFrame, hlength]

/-- After the first two checks a length byte out of range rejects (42_frame.md R119). -/
theorem decodeFrame_eq_rejLen {cfg : Cfg} {b : List Byte} (hlength : b.length = 64)
    (hheader : b.take 4 = cfg.syncWord.toList) (hlen : frameLen b = 0 ∨ frameLen b > cfg.maxCobsLen) :
    decodeFrame cfg b = .rejected .rejLen := by
  simp [decodeFrame, hlength, hheader, hlen]

/-- After the first four checks a malformed payload rejects (42_frame.md R121). -/
theorem decodeFrame_eq_rejStuff {cfg : Cfg} {b : List Byte} (hlength : b.length = 64)
    (hheader : b.take 4 = cfg.syncWord.toList) (hlen : frameLen b ≠ 0 ∧ frameLen b ≤ cfg.maxCobsLen)
    (hcrc : crc16 (b.take (5 + frameLen b)) = storedCrc b)
    (hpay : unstuff cfg ((b.drop 5).take (frameLen b)) = none) : decodeFrame cfg b = .rejected .rejStuff := by
  simp [decodeFrame, hlength, hheader, hlen, hcrc, hpay]

/-- The sixth check: an accepted payload must parse (42_frame.md R129). -/
theorem decodePacket_of_accepted {cfg : Cfg} {b d : List Byte} (h : decodeFrame cfg b = .accepted d) :
    decodePacket cfg b = if cfg.de d = none then .rejected .rejParse else .accepted d := by
  rw [decodePacket, h]
  cases hparse : cfg.de d <;> simp [hparse]

/-- Settles O37: the size is the first check. -/
theorem sizeGuard : Obligations.SizeGuard := fun _ _ hlength =>
  have hrej := decodeFrame_eq_rejSize hlength
  ⟨hrej, decodePacket_of_rejected hrej⟩

/-- Settles O38: one wrong byte makes the header wrong. -/
theorem headerGuard : Obligations.HeaderGuard := by
  rintro cfg b hlength ⟨i, hi⟩
  have hrej := decodeFrame_eq_rejSync hlength fun hheader => hi ((take_four_eq_syncWord_iff hlength).mp hheader i)
  exact ⟨hrej, decodePacket_of_rejected hrej⟩

/-- Settles O39: size and header are right, so the length byte decides. -/
theorem lengthGuard : Obligations.LengthGuard := by
  intro cfg b hlength hsync hlen
  have hrej := decodeFrame_eq_rejLen hlength ((take_four_eq_syncWord_iff hlength).mpr hsync) hlen
  exact ⟨hrej, decodePacket_of_rejected hrej⟩

/-- Settles O40: the comparison as numbers is the comparison with the stored checksum. -/
theorem checksumGuard : Obligations.ChecksumGuard := by
  intro cfg b hlength hsync hpos hmax hne
  have hheader := (take_four_eq_syncWord_iff hlength).mpr hsync
  have hcrc : crc16 (b.take (5 + frameLen b)) ≠ storedCrc b := fun heq =>
    hne ((congrArg BitVec.toNat heq).trans (storedCrc_toNat b))
  have hrej := decodeFrame_eq_rejCrc hlength hheader ⟨Nat.ne_of_gt hpos, hmax⟩ hcrc
  exact ⟨hrej, decodePacket_of_rejected hrej⟩

/-- Settles O41: the first four checks pass, so the answer is the unstuffing's and then the parse's. -/
theorem payloadDecides : Obligations.PayloadDecides := by
  intro cfg b hlength hsync hpos hmax heq
  have hheader := (take_four_eq_syncWord_iff hlength).mpr hsync
  have hlen : frameLen b ≠ 0 ∧ frameLen b ≤ cfg.maxCobsLen := ⟨Nat.ne_of_gt hpos, hmax⟩
  have hcrc : crc16 (b.take (5 + frameLen b)) = storedCrc b :=
    BitVec.eq_of_toNat_eq (heq.trans (storedCrc_toNat b).symm)
  split
  next hpay =>
    have hrej := decodeFrame_eq_rejStuff hlength hheader hlen hcrc hpay
    exact ⟨hrej, decodePacket_of_rejected hrej⟩
  next d hpay =>
    have hacc := decodeFrame_eq_accepted_iff.mpr ⟨hlength, hheader, hlen, hcrc, hpay⟩
    exact ⟨hacc, decodePacket_of_accepted hacc⟩

/-! ## The operations (42_frame.md R112, R116, R130, R131) -/

/-- A reply behind the length test: returned when the payload fits, else `ERR_OVERFLOW` is raised
(60_exceptions.md R188). -/
theorem respond_upToMaxRawOrFault {r : Reply} (hr : r.status.isFault = false) (cfg : Cfg) (din : List Byte)
    (s : State) (p : Port) : s.respond p (upToMaxRawOrFault cfg din r) =
      if din.length ≤ cfg.maxRaw then s.answer p r else s.raiseFault p .errOverflow := by
  rw [upToMaxRawOrFault_eq]
  split
  · exact respond_of_not_fault hr s p
  · exact respond_of_fault rfl s p

theorem imageOrRefuse_eq (cfg : Cfg) (din : List Byte) (r : Reply) :
    imageOrRefuse cfg din r = if cfg.de din = none then Reply.only .errOperand else r := by
  unfold imageOrRefuse
  cases cfg.de din <;> rfl

theorem exec_encPkt_running {s : State} (hs : s.faulted .PC = false) (din : List Byte) :
    exec (.encPkt din) s = .next (s.respond .PC (encPktReply Config.cfg din)) := codecOp_running hs _

/-- A decode's answer is returned, whatever it is (60_exceptions.md R183). -/
theorem exec_decFrame_running {s : State} (hs : s.faulted .PC = false) (din : List Byte) :
    exec (.decFrame din) s = .next (s.answer .PC (decodeFrame Config.cfg din).reply) := by
  rw [← respond_of_not_fault verdict_reply_not_fault.1]
  exact codecOp_running hs _

/-- A packet decode's answer is returned, whatever it is (60_exceptions.md R183). -/
theorem exec_decPkt_running {s : State} (hs : s.faulted .PC = false) (din : List Byte) :
    exec (.decPkt din) s = .next (s.answer .PC (decodePacket Config.cfg din).reply) := by
  rw [← respond_of_not_fault verdict_reply_not_fault.2]
  exact codecOp_running hs _

/-- Settles O35: a payload that fits is answered with its frame; a longer one raises `ERR_OVERFLOW`. -/
theorem encFrameAnswers : Obligations.EncFrameAnswers := by
  intro din s hs
  have hexec : exec (.encFrame din) s = .next (s.respond .PC (encFrameReply Config.cfg din)) := codecOp_running hs _
  rw [hexec, encFrameReply, respond_upToMaxRawOrFault rfl]
  rfl

/-- Settles O36: the reply is the verdict's. -/
theorem decFrameAnswers : Obligations.DecFrameAnswers := by
  intro din s hs
  rw [exec_decFrame_running hs]
  cases decodeFrame Config.cfg din <;> rfl

/-- Settles O45: what does not parse is refused; what parses goes through the length test of `ENC.FRAME`. -/
theorem encPktAnswers : Obligations.EncPktAnswers := by
  intro din s hs
  rw [exec_encPkt_running hs, encPktReply, imageOrRefuse_eq]
  split
  · rw [respond_of_not_fault rfl]
    rfl
  · rw [respond_upToMaxRawOrFault rfl]
    rfl

/-- Settles O46: the reply is the verdict's. -/
theorem decPktAnswers : Obligations.DecPktAnswers := by
  intro din s hs
  rw [exec_decPkt_running hs]
  cases decodePacket Config.cfg din <;> rfl

/-! ## The round trip of a packet (42_frame.md R132) -/

/-- The frame of a packet's image passes all six checks. -/
theorem decodePacket_encodeFrame_ser {cfg : Cfg} (hcfg : cfg.Lawful) (packet : Packet) :
    decodePacket cfg (encodeFrame cfg (cfg.ser packet)) = .accepted (cfg.ser packet) := by
  rw [decodePacket_of_accepted (frameRoundTrip cfg _ hcfg (hcfg.budget packet)), hcfg.roundTrip]
  rfl

/-- `ENC.PKT` of a packet's image, which parses and fits, returns its frame (42_frame.md R126, R130). -/
theorem exec_encPkt_ser {s : State} (hs : s.faulted .PC = false) (packet : Packet) :
    exec (.encPkt (Config.cfg.ser packet)) s =
      .next (s.answer .PC (Reply.okWith (.bytes (encodeFrame Config.cfg (Config.cfg.ser packet))))) := by
  rw [exec_encPkt_running hs, ← encodeReply, encodeReply_of_lawful Config.cfg_lawful, respond_of_not_fault rfl]

/-- Settles O47: the frame that `ENC.PKT` returns, `DEC.PKT` decodes to the image; the answer to `ENC.PKT` leaves
the port running. -/
theorem packetRoundTrip : Obligations.PacketRoundTrip := by
  intro packet s hs
  have hcfg := Config.cfg_lawful
  refine ⟨_, _, _, exec_encPkt_ser hs packet, rfl, encodeFrame_length hcfg (hcfg.budget packet),
    exec_decPkt_running (s := State.answer _ _ _) hs _, ?_, hcfg.roundTrip packet⟩
  rw [decodePacket_encodeFrame_ser hcfg]
  rfl

end Sys2Proof.Machine
end

section
/-! The family 43_sync.md: a push of the detector in each of its states, the stream of an aligned frame, the
statuses a push returns, and the invariant that every step keeps. -/

namespace Sys2Proof.Machine

/-! ## A push in each state of the detector (43_sync.md R142) -/

theorem exec_syncPush_running {s : State} (hs : s.faulted .PC = false) (b : Byte) :
    exec (.syncPush b) s = s.push Config.cfg b := atPort_running hs fun s => s.push Config.cfg b

theorem push_hunt {s : State} (hs : s.sdState = .hunt) (cfg : Cfg) (b : Byte) :
    s.push cfg b = .next ((s.huntStep cfg b).answer .PC (Reply.only .pending)) := by
  simp [State.push, hs]

/-- Before the 64th byte the byte is stored (43_sync.md R145). -/
theorem push_collect_stores {s : State} {n : Fin 65} (hs : s.sdState = .collect) (hn : n.val = s.rxCnt.val + 1)
    (hlt : n.val < 64) (cfg : Cfg) (b : Byte) :
    s.push cfg b = .next ({ s with rxBuf := s.rxBuf.set s.rxCnt.val b, rxCnt := n }.answer .PC
      (Reply.only .pending)) := by
  have hcnt : s.rxCnt.val < 64 := by omega
  have hn' : (⟨s.rxCnt.val + 1, by omega⟩ : Fin 65) = n := Fin.ext hn.symm
  simp [State.push, hs, State.collectStep, hcnt, hn', hn ▸ hlt]

/-- The 64th byte completes the candidate (43_sync.md R146). -/
theorem push_collect_completes {s : State} (hs : s.sdState = .collect) (hcnt : s.rxCnt.val = 63) (cfg : Cfg)
    (b : Byte) : s.push cfg b = .next
      ({ s with rxBuf := s.rxBuf.set 63 b, sdState := .hunt, sdFill := 0, rxCnt := 0 }.answer .PC
        (decodePacket cfg (s.rxBuf.set 63 b).toList).reply) := by
  simp [State.push, hs, State.collectStep, hcnt, State.detectorRestarts]

/-- A full buffer names no byte to store at (log 12). -/
theorem push_collect_full {s : State} (hs : s.sdState = .collect) (hcnt : s.rxCnt.val = 64) (cfg : Cfg)
    (b : Byte) : s.push cfg b = .fault .rxIndexOutOfRange := by
  simp [State.push, hs, State.collectStep, hcnt]

/-! ## The window (43_sync.md R143, R144) -/

theorem windowTakes_of_lt {s : State} (h : s.sdFill.val < 4) (b : Byte) : s.windowTakes b =
    { s with sdWin := s.sdWin.set s.sdFill.val b, sdFill := ⟨s.sdFill.val + 1, by omega⟩ } := by
  simp [State.windowTakes, h]

/-- The window after a byte: an open one takes it at its fill, a full one drops its oldest. -/
theorem windowTakes_spec (s : State) (b : Byte) :
    ∃ (w : Vector Byte 4) (n : Fin 5), s.windowTakes b = { s with sdWin := w, sdFill := n } ∧
      if s.sdFill.val < 4 then
        n.val = s.sdFill.val + 1 ∧ ∀ j : Fin 4, w[j.val] = if j.val = s.sdFill.val then b else s.sdWin[j.val]
      else n = s.sdFill ∧ w = #v[s.sdWin[1], s.sdWin[2], s.sdWin[3], b] := by
  by_cases h : s.sdFill.val < 4
  · refine ⟨_, _, windowTakes_of_lt h b, ?_⟩
    simp [h, Vector.getElem_set, eq_comm]
  · refine ⟨#v[s.sdWin[1], s.sdWin[2], s.sdWin[3], b], s.sdFill, ?_, ?_⟩
    · simp [State.windowTakes, h]
    · simp [h]

/-- A full window equal to the header starts a candidate; any other waits for the next byte. -/
theorem huntStep_eq {s : State} {b : Byte} {w : Vector Byte 4} {n : Fin 5}
    (h : s.windowTakes b = { s with sdWin := w, sdFill := n }) (cfg : Cfg) :
    s.huntStep cfg b = if n.val = 4 ∧ w = cfg.syncWord then
        { s with sdWin := w, sdFill := 0, sdState := .collect, rxCnt := 4,
                 rxBuf := withHeader s.rxBuf cfg.syncWord }
      else { s with sdWin := w, sdFill := n } := by
  simp only [State.huntStep, h, State.matchHeader]

/-- The buffer of a candidate that starts: the header, and the old bytes after it. -/
theorem withHeader_eq_ofFn (buf : Vector Byte 64) (w : Vector Byte 4) :
    withHeader buf w = Vector.ofFn fun j : Fin 64 => if h : j.val < 4 then w[j.val] else buf[j.val] := by
  ext i hi : 1
  rw [Vector.getElem_ofFn]
  split
  case isTrue h =>
    simp only at h
    simp only [withHeader]
    interval_cases i <;> simp
  case isFalse h =>
    simp only at h
    simp (disch := omega) only [withHeader, Vector.getElem_set_ne]

/-- Settles O49: the window takes the byte, then the comparison decides. -/
theorem syncPushHunts : Obligations.SyncPushHunts := by
  intro b s hrun hs
  obtain ⟨w, n, hw, hspec⟩ := windowTakes_spec s b
  refine ⟨w, n, hspec, ?_⟩
  rw [exec_syncPush_running hrun, push_hunt hs, huntStep_eq hw, withHeader_eq_ofFn]
  split
  · rfl
  · rfl

/-! ## The buffer (43_sync.md R145, R146) -/

/-- Settles O50: the byte is stored at `rx_cnt` and nowhere else. -/
theorem syncPushCollects : Obligations.SyncPushCollects := by
  intro b s n hrun hs hn hlt
  have hbuf : s.rxBuf.set s.rxCnt.val b =
      Vector.ofFn fun j : Fin 64 => if j.val = s.rxCnt.val then b else s.rxBuf[j.val] := by
    ext i hi : 1
    simp [Vector.getElem_set, eq_comm]
  rw [exec_syncPush_running hrun, push_collect_stores hs hn hlt, hbuf]
  rfl

/-- A byte stored behind the first `k` of a vector follows them. -/
theorem take_succ_set {α : Type} {n k : Nat} (v : Vector α n) (hk : k < n) (x : α) :
    (v.set k x).toList.take (k + 1) = v.toList.take k ++ [x] := by
  rw [Vector.toList_set, List.take_succ_eq_append_getElem (by simpa using hk), List.getElem_set_self,
    List.take_set_of_le le_rfl]

/-- The candidate that the 64th byte completes. -/
theorem set_last_toList (v : Vector Byte 64) (b : Byte) : (v.set 63 b).toList = v.toList.take 63 ++ [b] := by
  rw [← take_succ_set v (by decide) b, List.take_of_length_le (by simp)]

/-- Settles O51: the candidate is the 63 bytes stored before and the byte pushed. -/
theorem syncPushCompletes : Obligations.SyncPushCompletes := by
  intro b s hrun hs
  rw [exec_syncPush_running hrun]
  refine ⟨fun hcnt => ?_, fun hcnt => push_collect_full hs hcnt _ b⟩
  rw [push_collect_completes hs hcnt, set_last_toList]
  cases decodePacket Config.cfg (s.rxBuf.toList.take 63 ++ [b]) <;> rfl

/-! ## An aligned stream (43_sync.md R148) -/

/-- A list of instructions in two parts. -/
theorem execAll_append {is : List Instr} {s t : State} (h : execAll is s = .next t) (js : List Instr) :
    execAll (is ++ js) s = execAll js t := by
  induction is generalizing s with
  | nil =>
    simp only [execAll] at h
    injection h with h
    rw [List.nil_append, h]
  | cons i rest ih =>
    simp only [execAll] at h
    cases hi : exec i s with
    | next u =>
      rw [hi] at h
      simpa only [List.cons_append, execAll, hi] using ih h
    | fault r => simp [hi] at h
    | refused r => simp [hi] at h

/-- The detector of a running port holds exactly `bytes` of a frame it has seen from the first byte on: while they are
fewer than the header's four in the window, from then on in the buffer. -/
def Received (s : State) (bytes : List Byte) : Prop :=
  s.faulted .PC = false ∧
    if bytes.length < 4 then
      s.sdState = .hunt ∧ s.sdFill.val = bytes.length ∧ s.sdWin.toList.take bytes.length = bytes
    else s.sdState = .collect ∧ s.rxCnt.val = bytes.length ∧ s.rxBuf.toList.take bytes.length = bytes

theorem received_nil {s : State} (hrun : s.faulted .PC = false) (hs : s.sdState = .hunt) (hfill : s.sdFill.val = 0) :
    Received s [] := ⟨hrun, hs, hfill, rfl⟩

/-- The next byte of a header, or the byte that makes it whole. -/
theorem huntStep_received {cfg : Cfg} {s : State} {bytes : List Byte} {b : Byte} (h : Received s bytes)
    (hlen : bytes.length < 4) (hheader : bytes.length = 3 → bytes ++ [b] = cfg.syncWord.toList) :
    Received (s.huntStep cfg b) (bytes ++ [b]) := by
  obtain ⟨hrun, hrec⟩ := h
  rw [if_pos hlen] at hrec
  obtain ⟨hs, hfill, hwin⟩ := hrec
  have hlt : s.sdFill.val < 4 := by omega
  have htake : (s.sdWin.set s.sdFill.val b).toList.take (bytes.length + 1) = bytes ++ [b] := by
    rw [← hfill, take_succ_set, hfill, hwin]
  rw [huntStep_eq (windowTakes_of_lt hlt b)]
  by_cases hthree : bytes.length = 3
  · have hsync : s.sdWin.set s.sdFill.val b = cfg.syncWord := by
      rw [hthree, List.take_of_length_le (by simp), hheader hthree] at htake
      exact Vector.toList_inj.mp htake
    rw [if_pos ⟨by simp only; omega, hsync⟩]
    refine ⟨hrun, ?_⟩
    simp [withHeader_take, hheader hthree]
  · rw [if_neg (by simp only; omega)]
    refine ⟨hrun, ?_⟩
    rw [if_pos (by simp; omega), List.length_append]
    exact ⟨hs, by simp [hfill], htake⟩

/-- Before the 64th byte of a frame a push returns `PENDING` and the detector holds the byte. -/
theorem push_received {cfg : Cfg} {s : State} {bytes : List Byte} {b : Byte} (h : Received s bytes)
    (hlen : bytes.length < 63) (hheader : bytes.length = 3 → bytes ++ [b] = cfg.syncWord.toList) :
    ∃ t, s.push cfg b = .next t ∧ Received t (bytes ++ [b]) ∧
      t.replies.pc = Reply.only .pending :: s.replies.pc := by
  by_cases hfour : bytes.length < 4
  · have hnext := huntStep_received h hfour hheader
    obtain ⟨_, hrec⟩ := h
    rw [if_pos hfour] at hrec
    obtain ⟨hs, _⟩ := hrec
    obtain ⟨_, _, _, _, _, hframe⟩ := huntStep_frame cfg s b
    exact ⟨_, push_hunt hs cfg b, hnext, by simp [hframe]⟩
  · obtain ⟨hrun, hrec⟩ := h
    rw [if_neg hfour] at hrec
    obtain ⟨hs, hcnt, hbuf⟩ := hrec
    refine ⟨_, push_collect_stores (n := ⟨s.rxCnt.val + 1, by omega⟩) hs rfl (by simp only; omega) cfg b,
      ⟨hrun, ?_⟩, rfl⟩
    rw [if_neg (by simp; omega), List.length_append]
    refine ⟨hs, by simp [hcnt], ?_⟩
    simp only [answer_rxBuf, List.length_singleton, ← hcnt, take_succ_set]
    rw [hcnt, hbuf]

/-- The 64th byte of a frame is answered with the frame's decode, and the detector hunts with an empty window. -/
theorem push_received_last {cfg : Cfg} {s : State} {bytes : List Byte} (h : Received s bytes)
    (hlen : bytes.length = 63) (b : Byte) :
    ∃ t, s.push cfg b = .next t ∧ t.replies.pc = (decodePacket cfg (bytes ++ [b])).reply :: s.replies.pc ∧
      t.sdState = .hunt ∧ t.sdFill.val = 0 ∧ t.rxCnt.val = 0 := by
  obtain ⟨_, hrec⟩ := h
  rw [if_neg (by omega), hlen] at hrec
  obtain ⟨hs, hcnt, hbuf⟩ := hrec
  rw [push_collect_completes hs hcnt, set_last_toList, hbuf]
  exact ⟨_, rfl, rfl, rfl, rfl, rfl⟩

/-- The bytes of a frame up to the 63rd are taken with `PENDING` each. -/
theorem execAll_received {s : State} {bytes more : List Byte} (h : Received s bytes)
    (hlen : (bytes ++ more).length ≤ 63)
    (hheader : (bytes ++ more).take 4 = Config.cfg.syncWord.toList) :
    ∃ t, execAll (more.map .syncPush) s = .next t ∧ Received t (bytes ++ more) ∧
      t.replies.pc = List.replicate more.length (Reply.only .pending) ++ s.replies.pc := by
  induction more generalizing s bytes with
  | nil => exact ⟨s, rfl, by simpa using h, rfl⟩
  | cons b rest ih =>
    have hsplit : bytes ++ b :: rest = (bytes ++ [b]) ++ rest := List.append_cons bytes b rest
    have hfourth : bytes.length = 3 → bytes ++ [b] = Config.cfg.syncWord.toList := fun hthree => by
      rw [← hheader, hsplit, List.take_left' (by simp [hthree])]
    have hlt : bytes.length < 63 := by
      rw [List.length_append, List.length_cons] at hlen
      omega
    obtain ⟨u, hu, hrec, hreplies⟩ := push_received h hlt hfourth
    rw [hsplit] at hlen hheader ⊢
    obtain ⟨t, ht, hrec', hreplies'⟩ := ih hrec hlen hheader
    refine ⟨t, ?_, hrec', ?_⟩
    · simpa only [List.map_cons, execAll, exec_syncPush_running h.1, hu] using ht
    · rw [hreplies', hreplies, List.length_cons, List.replicate_succ', List.append_assoc]
      rfl

/-- Settles O53: the first 63 bytes of the frame are taken, the 64th completes it, and it decodes to the packet's
image. -/
theorem alignedFrameIsDelivered : Obligations.AlignedFrameIsDelivered := by
  intro packet s hrun hs hfill
  have hcfg := Config.cfg_lawful
  have hlength := encodeFrame_length hcfg (hcfg.budget packet)
  have hheader := encodeFrame_take_four Config.cfg (Config.cfg.ser packet)
  have hdecode := decodePacket_encodeFrame_ser hcfg packet
  obtain ⟨first, last, hF⟩ : ∃ first last, encodeFrame Config.cfg (Config.cfg.ser packet) = first ++ [last] :=
    ⟨_, _, (List.dropLast_append_getLast (List.ne_nil_of_length_eq_add_one hlength)).symm⟩
  rw [hF] at hlength hheader hdecode ⊢
  have hfirst : first.length = 63 := by simpa using hlength
  rw [List.take_append_of_le_length (by omega)] at hheader
  obtain ⟨u, hu, hrec, hpending⟩ :=
    execAll_received (more := first) (received_nil hrun hs hfill) hfirst.le hheader
  obtain ⟨t, ht, hreply, hend⟩ := push_received_last (cfg := Config.cfg) hrec hfirst last
  refine ⟨t, ?_, ?_, hend⟩
  · rw [List.map_append, execAll_append hu]
    simp only [List.map_cons, List.map_nil, execAll, exec_syncPush_running hrec.1, ht]
  · rw [hreply, hpending, List.nil_append, hdecode, hfirst]
    rfl

/-! ## The statuses a push returns (43_sync.md R142) -/

/-- A decode of 64 bytes that begin with the header rejects neither the size nor the header. -/
theorem decodePacket_status {cfg : Cfg} {b : List Byte} (hlength : b.length = 64)
    (hheader : b.take 4 = cfg.syncWord.toList) :
    (decodePacket cfg b).reply.status ∈ [.pending, .ok, .rejLen, .rejCrc, .rejStuff, .rejParse] := by
  by_cases hlen : frameLen b = 0 ∨ frameLen b > cfg.maxCobsLen
  · rw [decodePacket_of_rejected (decodeFrame_eq_rejLen hlength hheader hlen)]
    decide
  replace hlen : frameLen b ≠ 0 ∧ frameLen b ≤ cfg.maxCobsLen := by omega
  by_cases hcrc : crc16 (b.take (5 + frameLen b)) = storedCrc b
  · cases hpay : unstuff cfg ((b.drop 5).take (frameLen b)) with
    | none =>
      rw [decodePacket_of_rejected (decodeFrame_eq_rejStuff hlength hheader hlen hcrc hpay)]
      decide
    | some d =>
      rw [decodePacket_of_accepted (decodeFrame_eq_accepted_iff.mpr ⟨hlength, hheader, hlen, hcrc, hpay⟩)]
      split
      · decide
      · simp [Verdict.reply]
  · rw [decodePacket_of_rejected (decodeFrame_eq_rejCrc hlength hheader hlen hcrc)]
    decide

/-- A byte stored behind the header leaves it. -/
theorem set_take_four {v : Vector Byte 64} {k : Nat} (hk : k < 64) (hfour : 4 ≤ k) (b : Byte) :
    (v.set k b).toList.take 4 = v.toList.take 4 := by
  rw [Vector.toList_set, List.take_set_of_le hfour]

/-- Settles O52: a push that does not complete a candidate returns `PENDING`, and a candidate is 64 bytes long and
begins with the header (43_sync.md R147 (b)). -/
theorem syncNeverRejectsSizeOrSync : Obligations.SyncNeverRejectsSizeOrSync := by
  intro b s t r hrun ⟨_, hcollect⟩ hexec hr
  rw [exec_syncPush_running hrun] at hexec
  rcases push_cases hexec with ⟨_, rfl⟩ | ⟨hs, hcnt, _, ⟨_, rfl⟩ | ⟨_, rfl⟩⟩
  · obtain ⟨_, _, _, _, _, hframe⟩ := huntStep_frame Config.cfg s b
    obtain rfl : Reply.only .pending = r := by simpa [hframe] using hr
    decide
  · obtain rfl : Reply.only .pending = r := by simpa using hr
    decide
  · obtain ⟨hfour, _, _, hheader⟩ := hcollect hs
    obtain rfl : (decodePacket Config.cfg (s.rxBuf.set s.rxCnt.val b).toList).reply = r := by simpa using hr
    exact decodePacket_status (by simp) (by rw [set_take_four hcnt hfour, hheader])

/-! ## The detector's part of the invariant (43_sync.md R147) -/

theorem detectorOk_of_sameDetector {cfg : Cfg} {s t : State} (h : DetectorOk cfg s) (hsame : SameDetector s t) :
    DetectorOk cfg t := by
  obtain ⟨hstate, hwin, hfill, hbuf, hcnt⟩ := hsame
  simpa only [DetectorOk, hstate, hwin, hfill, hbuf, hcnt] using h

/-- A hunt step leaves `HUNT` with the header stored, or stays with a window that is not the header. -/
theorem huntStep_detectorOk {cfg : Cfg} {s : State} (h : DetectorOk cfg s) (hs : s.sdState = .hunt) (b : Byte) :
    DetectorOk cfg (s.huntStep cfg b) := by
  obtain ⟨hhunt, _⟩ := h
  obtain ⟨hcnt, _⟩ := hhunt hs
  obtain ⟨w, n, hw, _⟩ := windowTakes_spec s b
  rw [huntStep_eq hw]
  split
  case isTrue =>
    exact ⟨fun hstate => (by cases hstate),
      fun _ => ⟨le_rfl, show 4 ≤ 63 by decide, rfl, withHeader_take _ _⟩⟩
  case isFalse hne =>
    exact ⟨fun _ => ⟨hcnt, fun hfull hwin => hne ⟨hfull, hwin⟩⟩,
      fun hstate => absurd (hs.symm.trans hstate) (by decide)⟩

theorem push_detectorOk {cfg : Cfg} {s t : State} {b : Byte} (h : DetectorOk cfg s)
    (hpush : s.push cfg b = .next t) : DetectorOk cfg t := by
  rcases push_cases hpush with ⟨hs, rfl⟩ | ⟨hs, hlt, _, ⟨hnext, rfl⟩ | ⟨_, rfl⟩⟩
  · exact huntStep_detectorOk h hs b
  · obtain ⟨_, hcollect⟩ := h
    obtain ⟨hfour, _, hfill, hheader⟩ := hcollect hs
    refine ⟨fun hstate => absurd (hs.symm.trans hstate) (by decide), fun _ => ⟨?_, ?_, hfill, ?_⟩⟩
    · exact Nat.le_succ_of_le hfour
    · exact Nat.le_of_lt_succ hnext
    · exact (set_take_four hlt hfour b).trans hheader
  · exact ⟨fun _ => ⟨rfl, fun hfull => (by cases hfull)⟩, fun hstate => (by cases hstate)⟩

theorem respond_sameDetector (s : State) (p : Port) (r : Reply) : SameDetector s (s.respond p r) := by
  rcases respond_cases s p r with ⟨_, e⟩ | ⟨_, e⟩
  · simp [e, SameDetector]
  · simp [e, SameDetector]

/-- Only `SYNC.PUSH` changes the detector. -/
theorem exec_detectorOk {i : Instr} {s t : State} (h : DetectorOk Config.cfg s) (hexec : exec i s = .next t) :
    DetectorOk Config.cfg t := by
  by_cases hport : i.port = .PC
  · rcases exec_cases hexec with
      ⟨_, rfl⟩ |
      ⟨_, ⟨_, rfl, _⟩ | ⟨_, rfl, _⟩ | ⟨_, rfl, _⟩ | ⟨rfl, _⟩ | ⟨_, _, hpush⟩ | ⟨_, _, r, rfl⟩⟩
    · exact h
    · cases hport
    · cases hport
    · cases hport
    · cases hport
    · exact push_detectorOk h hpush
    · exact detectorOk_of_sameDetector h (respond_sameDetector s .PC r)
  · exact detectorOk_of_sameDetector h (exec_sameDetector hport hexec)

/-! ## The faults' part of the invariant (60_exceptions.md R188 to R190) -/

theorem portFaultOk_of_mem {code : BitVec 4} {codes : List (BitVec 4)} (h : code ∈ codes) :
    PortFaultOk ⟨true, code⟩ codes := ⟨fun hset => (by cases hset), fun _ => h⟩

/-- `ERR_ILLEGAL` may be raised at every port, `ERR_OVERFLOW` at PC (60_exceptions.md R188, R189). -/
theorem raiseFault_faultsOk {s : State} {p : Port} {st : Status} (h : FaultsOk s)
    (hst : st = .errIllegal ∨ st = .errOverflow ∧ p = .PC) : FaultsOk (s.raiseFault p st) := by
  obtain ⟨hpa, hpb, hpc⟩ := h
  rcases hst with rfl | ⟨rfl, rfl⟩
  · cases p with
    | PA => exact ⟨portFaultOk_of_mem (by decide), hpb, hpc⟩
    | PB => exact ⟨hpa, portFaultOk_of_mem (by decide), hpc⟩
    | PC => exact ⟨hpa, hpb, portFaultOk_of_mem (by decide)⟩
  · exact ⟨hpa, hpb, portFaultOk_of_mem (by decide)⟩

theorem respond_PC_faultsOk {s : State} (h : FaultsOk s) (r : Reply) : FaultsOk (s.respond .PC r) := by
  rcases respond_cases s .PC r with ⟨_, e⟩ | ⟨hfault, e⟩ <;> rw [e]
  · exact h
  · have hst := (isFault_iff _).mp hfault
    exact raiseFault_faultsOk h (hst.symm.imp_right fun hover => ⟨hover, rfl⟩)

theorem exec_faultsOk {i : Instr} {s t : State} (h : FaultsOk s) (hexec : exec i s = .next t) : FaultsOk t := by
  rcases exec_cases hexec with
    ⟨_, rfl⟩ |
    ⟨_, ⟨_, _, rfl⟩ | ⟨_, _, rfl⟩ | ⟨_, _, rfl⟩ | ⟨_, rfl⟩ | ⟨_, _, hpush⟩ | ⟨_, _, r, rfl⟩⟩
  · exact h
  · exact h
  · exact h
  · exact h
  · obtain ⟨_, _, hpfault, _⟩ := snapStep_frame s
    rwa [FaultsOk, hpfault]
  · obtain ⟨_, hpfault, _⟩ := push_frame hpush
    rwa [FaultsOk, hpfault]
  · exact respond_PC_faultsOk h r

/-! ## The snapshot's part of the invariant (44_counter_bank.md R168 to R171) -/

/-- Only an operation of the port is decoded there (30_encoding.md R61). -/
theorem port_of_decode {p : Port} {r : Request} {i : Instr} (h : decode p r = .ok i) : i.port = p := by
  cases r with
  | cmd word din => exact (encodeOfDecode p word din i h).1
  | encode image =>
    cases p with
    | PA => cases h
    | PB => cases h
    | PC =>
      simp only [decode] at h
      split at h
      case h_1 packet _ =>
        injection h with h
        rw [← h]
        cases packet <;> rfl
      case h_2 => cases h

theorem snapIsCurrent_iff_of_cons {s : State} {r : Request} {rest : List Request} (hq : s.queue.pb = r :: rest) :
    snapIsCurrent s = true ↔ decode .PB r = .ok .cbSnap := by
  simp only [snapIsCurrent, hq]
  split <;> simp_all

/-- Where PB's next operation is not `CB.SNAP`, no snapshot is in flight (44_counter_bank.md R171). -/
theorem snapActive_eq_false_of_decode_ne {s : State} {r : Request} {rest : List Request} (h : SnapshotOk s)
    (hq : s.queue.pb = r :: rest) (hne : decode .PB r ≠ .ok .cbSnap) : s.snapActive = false := by
  by_contra hactive
  obtain ⟨hcurrent, _⟩ := h.1 (Bool.eq_true_of_not_eq_false hactive)
  exact hne ((snapIsCurrent_iff_of_cons hq).mp hcurrent)

/-- Where PB is faulted, no snapshot is in flight (60_exceptions.md R191). -/
theorem snapActive_eq_false_of_faulted {s : State} (h : SnapshotOk s) (hf : s.faulted .PB = true) :
    s.snapActive = false := by
  by_contra hactive
  obtain ⟨_, hrun⟩ := h.1 (Bool.eq_true_of_not_eq_false hactive)
  exact absurd (hf.symm.trans hrun) (by decide)

/-- With no snapshot in flight, nothing but the snapshot's own state matters. -/
theorem snapshotOk_of_idle {s t : State} (h : SnapshotOk s) (hidle : s.snapActive = false)
    (hactive : t.snapActive = s.snapActive) (htodo : t.snapTodo = s.snapTodo) : SnapshotOk t := by
  obtain ⟨_, hleft⟩ := h
  exact ⟨fun hon => absurd (hon.symm.trans (hactive.trans hidle)) (by decide), fun _ => htodo.trans (hleft hidle)⟩

/-- A result returned at PB ends its operation, so no snapshot may be in flight; at another port it may. -/
theorem answer_snapshotOk {s : State} {p : Port} (h : SnapshotOk s) (hidle : p = .PB → s.snapActive = false)
    (r : Reply) : SnapshotOk (s.answer p r) := by
  cases p with
  | PA => exact h
  | PB => exact snapshotOk_of_idle h (hidle rfl) rfl rfl
  | PC => exact h

/-- A fault raised at PB ends its operation, so no snapshot may be in flight; at another port it may. -/
theorem raiseFault_snapshotOk {s : State} {p : Port} (h : SnapshotOk s) (hidle : p = .PB → s.snapActive = false)
    (st : Status) : SnapshotOk (s.raiseFault p st) := by
  cases p with
  | PA => exact h
  | PB => exact snapshotOk_of_idle h (hidle rfl) rfl rfl
  | PC => exact h

/-- A running `CB.SNAP` keeps its place in PB's list until its return step, and that leaves no channel to read. -/
theorem snapStep_snapshotOk {s : State} (hrun : s.faulted .PB = false) (hcurrent : snapIsCurrent s = true) :
    SnapshotOk s.snapStep := by
  rcases snapStep_cases s with ⟨_, e⟩ | ⟨hactive, i, _, c, d, e⟩ | ⟨_, hleft, e⟩ <;> rw [e]
  · exact ⟨fun _ => ⟨hcurrent, hrun⟩, fun hidle => (by cases hidle)⟩
  · exact ⟨fun _ => ⟨hcurrent, hrun⟩, fun hidle => absurd (hactive.symm.trans hidle) (by decide)⟩
  · refine ⟨fun hon => (by cases hon), fun _ => ?_⟩
    ext j hj
    simpa using hleft ⟨j, hj⟩

/-- An instruction that its port's first request decodes to keeps the snapshot's part of the invariant. -/
theorem exec_snapshotOk {i : Instr} {p : Port} {r : Request} {rest : List Request} {s t : State}
    (h : SnapshotOk s) (hq : portGet s.queue p = r :: rest) (hd : decode p r = .ok i)
    (hexec : exec i s = .next t) : SnapshotOk t := by
  have hport := port_of_decode hd
  rcases exec_cases hexec with
    ⟨hf, rfl⟩ |
    ⟨hrun, ⟨_, rfl, rfl⟩ | ⟨_, rfl, rfl⟩ | ⟨_, rfl, rfl⟩ | ⟨rfl, rfl⟩ | ⟨_, rfl, hpush⟩ | ⟨_, _, reply, rfl⟩⟩
  · exact answer_snapshotOk h (fun hPB => snapActive_eq_false_of_faulted h (hPB ▸ hf)) _
  · exact h
  · exact h
  · subst hport
    have hidle := snapActive_eq_false_of_decode_ne h hq (hd.trans_ne (by simp))
    exact answer_snapshotOk h (fun _ => hidle) _
  · subst hport
    exact snapStep_snapshotOk hrun ((snapIsCurrent_iff_of_cons hq).mpr hd)
  · obtain ⟨⟨_, hactive, htodo, _⟩, hpfault, _, _, hqueue, _⟩ := push_frame hpush
    simpa [SnapshotOk, snapIsCurrent, hactive, htodo, hpfault, hqueue] using h
  · rcases respond_cases s .PC reply with ⟨_, e⟩ | ⟨_, e⟩ <;> rw [e]
    · exact answer_snapshotOk h (by simp) _
    · exact raiseFault_snapshotOk h (by simp) _

/-! ## The invariant is kept (43_sync.md R147) -/

/-- Choosing an agent leaves the three parts alone. -/
theorem nextAgent_inv {s u : State} {a : Agent} (h : Inv s) (hagent : s.nextAgent = some (a, u)) : Inv u := by
  obtain ⟨_, c, d, rfl⟩ := nextAgent_frame hagent
  exact h

theorem exec_inv {p : Port} {r : Request} {rest : List Request} {i : Instr} {s t : State} (h : Inv s)
    (hq : portGet s.queue p = r :: rest) (hd : decode p r = .ok i) (hexec : exec i s = .next t) : Inv t := by
  obtain ⟨hdetector, hfaults, hsnap⟩ := h
  exact ⟨exec_detectorOk hdetector hexec, exec_faultsOk hfaults hexec, exec_snapshotOk hsnap hq hd hexec⟩

/-- A request its port does not take. -/
theorem rejectRequest_inv {p : Port} {r : Request} {rest : List Request} {e : DecodeError} {s : State}
    (h : Inv s) (hq : portGet s.queue p = r :: rest) (hd : decode p r = .error e) : Inv (s.rejectRequest p e) := by
  obtain ⟨hdetector, hfaults, hsnap⟩ := h
  have hidle : p = .PB → s.snapActive = false := by
    rintro rfl
    exact snapActive_eq_false_of_decode_ne hsnap hq (by simp [hd])
  rcases rejectRequest_cases s p e with ⟨reply, heq⟩ | ⟨_, heq⟩ <;> rw [heq]
  · exact ⟨hdetector, hfaults, answer_snapshotOk hsnap hidle reply⟩
  · exact ⟨hdetector, raiseFault_faultsOk hfaults (.inl rfl), raiseFault_snapshotOk hsnap hidle _⟩

/-- Hardware reset brings every part of the invariant back to its value at reset (70_reset_and_hazards.md R210). -/
theorem takeReset_inv (s : State) : Inv s.takeReset :=
  ⟨detectorOk_of_sameDetector (reset_detectorOk Config.cfg) ⟨rfl, rfl, rfl, rfl, rfl⟩, reset_faultsOk,
    snapshotOk_of_idle reset_snapshotOk rfl rfl rfl⟩

/-- Settles O59: waiting, an instruction, a refused request, or hardware reset. -/
theorem stepKeepsInvariant : Obligations.StepKeepsInvariant := by
  intro s t hinv hstep
  rcases step_cases s with
    ⟨_, e⟩ | ⟨p, u, r, rest, i, hagent, hq, hd, e⟩ | ⟨p, u, r, rest, err, hagent, hq, hd, e⟩ | ⟨u, _, e⟩ <;>
    rw [e] at hstep
  · injection hstep with hstep
    rwa [← hstep]
  · exact exec_inv (nextAgent_inv hinv hagent) hq hd hstep
  · injection hstep with hstep
    rw [← hstep]
    exact rejectRequest_inv (nextAgent_inv hinv hagent) hq hd
  · injection hstep with hstep
    rw [← hstep]
    exact takeReset_inv u

end Sys2Proof.Machine
end

section
/-! The family 44_counter_bank.md: the snapshot in any run and in a quiet one, its three steps, and what the
operations of PA and `CB.RD` do to the cells. -/

namespace Sys2Proof.Machine

/-! ## A snapshot in a run of the whole machine (44_counter_bank.md R172, R173) -/

/-- The snapshot's state is the same, and PB returns no eight cells. -/
def SnapStays (s t : State) : Prop :=
  t.snapActive = s.snapActive ∧ t.snapTodo = s.snapTodo ∧ t.snapVal = s.snapVal ∧
    ∀ v, t.replies.pb ≠ ⟨.ok, .cells v⟩ :: s.replies.pb

/-- Where PB returns nothing at all, only the snapshot's own state has to stay. -/
theorem snapStays_of_same {s t : State} (hactive : t.snapActive = s.snapActive) (htodo : t.snapTodo = s.snapTodo)
    (hval : t.snapVal = s.snapVal) (hpb : t.replies.pb = s.replies.pb) : SnapStays s t :=
  ⟨hactive, htodo, hval, fun _ => by simp [hpb]⟩

/-- A result that is not eight cells, at any port. -/
theorem answer_snapStays (s : State) (p : Port) {r : Reply} (h : ∀ v, r.dout ≠ .cells v) :
    SnapStays s (s.answer p r) := by
  cases p with
  | PA => exact snapStays_of_same rfl rfl rfl rfl
  | PB =>
    refine ⟨rfl, rfl, rfl, fun v hpb => h v ?_⟩
    injection hpb with hr
    rw [hr]
  | PC => exact snapStays_of_same rfl rfl rfl rfl

/-- A fault returns a status alone (60_exceptions.md R190). -/
theorem raiseFault_snapStays (s : State) (p : Port) (st : Status) : SnapStays s (s.raiseFault p st) :=
  answer_snapStays _ p (r := Reply.only st) (by simp)

/-- What an instruction does to the snapshot: nothing, unless it is a step of `CB.SNAP`. -/
theorem exec_snapshot_cases {i : Instr} {s t : State} (h : exec i s = .next t) :
    SnapStays s t ∨ t = s.snapStep := by
  rcases exec_cases h with
    ⟨_, rfl⟩ |
    ⟨_, ⟨_, _, rfl⟩ | ⟨_, _, rfl⟩ | ⟨_, _, rfl⟩ | ⟨_, rfl⟩ | ⟨_, _, hpush⟩ | ⟨_, _, r, rfl⟩⟩
  · exact .inl (answer_snapStays s _ (by simp))
  · exact .inl (snapStays_of_same rfl rfl rfl rfl)
  · exact .inl (snapStays_of_same rfl rfl rfl rfl)
  · exact .inl (answer_snapStays s _ (by simp))
  · exact .inr rfl
  · obtain ⟨⟨_, hactive, htodo, hval⟩, _, _, _, _, hreplies⟩ := push_frame hpush
    exact .inl (snapStays_of_same hactive htodo hval (by simp [hreplies]))
  · rcases respond_cases s .PC r with ⟨_, e⟩ | ⟨_, e⟩ <;> rw [e] <;>
      exact .inl (snapStays_of_same rfl rfl rfl rfl)

/-- A request that is no instruction of its port returns a status alone. -/
theorem rejectRequest_snapStays (s : State) (p : Port) (e : DecodeError) : SnapStays s (s.rejectRequest p e) := by
  unfold State.rejectRequest
  split
  · exact answer_snapStays s p (by simp)
  · cases e with
    | illegalWord => exact raiseFault_snapStays s p _
    | notAPacketImage => exact answer_snapStays s p (by simp)

/-- What a step of the machine does to the snapshot: nothing, its next step under some answer to the open choice,
or its end without a result by hardware reset (70_reset_and_hazards.md R210). -/
theorem step_snapshot_cases {s t : State} (h : step s = .next t) :
    SnapStays s t ∨ (∃ c d, t = ({ s with choices := c, drawn := d } : State).snapStep) ∨
      (t.snapActive = false ∧ t.replies.pb = s.replies.pb) := by
  rcases step_cases s with
    ⟨_, e⟩ | ⟨p, u, _, _, i, hagent, _, _, e⟩ | ⟨p, u, _, _, err, hagent, _, _, e⟩ | ⟨u, hagent, e⟩ <;>
    rw [e] at h
  · injection h with h
    exact .inl (snapStays_of_same (by rw [h]) (by rw [h]) (by rw [h]) (by rw [h]))
  · obtain ⟨_, c, d, rfl⟩ := nextAgent_frame hagent
    rcases exec_snapshot_cases h with hstays | rfl
    · exact .inl hstays
    · exact .inr (.inl ⟨c, d, rfl⟩)
  · obtain ⟨_, c, d, rfl⟩ := nextAgent_frame hagent
    injection h with h
    rw [← h]
    exact .inl (rejectRequest_snapStays _ p err)
  · obtain ⟨_, c, d, rfl⟩ := nextAgent_frame hagent
    injection h with h
    rw [← h]
    exact .inr (.inr ⟨rfl, rfl⟩)

/-- Only the return step returns eight cells, the values read, with no channel left (44_counter_bank.md R171). -/
theorem step_returns_cells {s t : State} {v : Vector Word 8} (h : step s = .next t)
    (hpb : t.replies.pb = ⟨.ok, .cells v⟩ :: s.replies.pb) :
    s.snapActive = true ∧ (∀ i : Channel, s.snapTodo[i.val] = false) ∧ v = s.snapVal := by
  rcases step_snapshot_cases h with ⟨_, _, _, hno⟩ | ⟨c, d, rfl⟩ | ⟨_, hreplies⟩
  · exact absurd hpb (hno v)
  · rcases snapStep_cases { s with choices := c, drawn := d } with
      ⟨_, e⟩ | ⟨_, i, _, c', d', e⟩ | ⟨hactive, hleft, e⟩ <;> rw [e] at hpb
    · simp at hpb
    · simp at hpb
    · refine ⟨hactive, hleft, ?_⟩
      simpa [Reply.okWith, eq_comm] using hpb
  · simp [hreplies] at hpb

/-- A channel a snapshot has read was read before this step, or by it (44_counter_bank.md R168, R169). -/
theorem step_value_read {s t : State} (h : step s = .next t) (hactive : t.snapActive = true) {i : Channel}
    (hread : t.snapTodo[i.val] = false) :
    (s.snapActive = true ∧ s.snapTodo[i.val] = false ∧ t.snapVal[i.val] = s.snapVal[i.val]) ∨
      t.snapVal[i.val] = s.cb[i.val] := by
  rcases step_snapshot_cases h with ⟨hsame, htodo, hval, _⟩ | ⟨c, d, rfl⟩ | ⟨hidle, _⟩
  · exact .inl ⟨hsame ▸ hactive, htodo ▸ hread, by rw [hval]⟩
  · rcases snapStep_cases { s with choices := c, drawn := d } with
      ⟨_, e⟩ | ⟨hon, j, _, c', d', e⟩ | ⟨_, _, e⟩ <;> rw [e] at hactive hread ⊢
    · simp at hread
    · by_cases hji : j = i
      · subst hji
        exact .inr (by simp [State.cellRead])
      · have hne : j.val ≠ i.val := Fin.val_ne_of_ne hji
        refine .inl ⟨hon, ?_, ?_⟩
        · simpa [Vector.getElem_set_ne _ _ hne] using hread
        · simp [Vector.getElem_set_ne _ _ hne]
    · simp at hactive
  · exact absurd (hactive.symm.trans hidle) (by decide)

/-- Settles O11: by induction along the run, a value read in the snapshot was in its cell at the instant it was
read; the return step returns the values read, with every channel read. -/
theorem snapshotValuesWereHeld : Obligations.SnapshotValuesWereHeld := by
  intro run n t v hidle hrun _ hlast hpb i
  have hheld : ∀ k ≤ n, (run k).snapActive = true → (run k).snapTodo[i.val] = false →
      ∃ j ≤ k, (run k).snapVal[i.val] = (run j).cb[i.val] := by
    intro k
    induction k with
    | zero =>
      intro _ hactive
      exact absurd (hactive.symm.trans hidle) (by decide)
    | succ k ih =>
      intro hk hactive hread
      rcases step_value_read (hrun k hk) hactive hread with ⟨hbefore, hleft, hval⟩ | hval
      · obtain ⟨j, hj, hcell⟩ := ih (Nat.le_of_succ_le hk) hbefore hleft
        exact ⟨j, Nat.le_succ_of_le hj, hval.trans hcell⟩
      · exact ⟨k, Nat.le_succ k, hval⟩
  obtain ⟨hactive, hleft, rfl⟩ := step_returns_cells hlast hpb
  exact hheld n (Nat.le_refl n) hactive (hleft i)

/-! ## The steps of `CB.SNAP` (44_counter_bank.md R167 to R171) -/

theorem exec_cbSnap_running {s : State} (hs : s.faulted .PB = false) : exec .cbSnap s = .next s.snapStep := by
  simp only [exec, execCbSnap, atPort_running hs]

theorem snapStep_of_idle {s : State} (h : s.snapActive = false) : s.snapStep = s.snapBegin := by
  simp [State.snapStep, h]

/-- The channel picked of those left is read (44_counter_bank.md R170). -/
theorem snapStep_of_pick {s t : State} {i : Channel} (hpick : s.pick s.snapLeft = some (i, t))
    (hactive : s.snapActive = true) : s.snapStep = t.snapRead i := by
  simp [State.snapStep, hactive, hpick]

/-- With channels left, one of them is read. -/
theorem snapStep_reads {s : State} (hactive : s.snapActive = true) (hleft : ∃ j : Channel, s.snapTodo[j.val] = true) :
    ∃ i : Channel, s.snapTodo[i.val] = true ∧
      ∃ c d, s.snapStep = ({ s with choices := c, drawn := d } : State).snapRead i := by
  obtain ⟨j, hj⟩ := hleft
  rcases snapStep_cases s with ⟨hidle, _⟩ | ⟨_, hreads⟩ | ⟨_, hnone, _⟩
  · exact absurd (hactive.symm.trans hidle) (by decide)
  · exact hreads
  · exact absurd (hj.symm.trans (hnone j)) (by decide)

/-- With no channel left, the values read are returned. -/
theorem snapStep_returns {s : State} (hactive : s.snapActive = true)
    (hnone : ∀ j : Channel, s.snapTodo[j.val] = false) : s.snapStep = s.snapReturn := by
  simp [State.snapStep, hactive, snapLeft_eq_nil.mpr hnone, State.pick]

/-- Settles O7. -/
theorem snapReadStep : Obligations.SnapReadStep := by
  intro s hs hactive hleft
  obtain ⟨i, hi, c, d, e⟩ := snapStep_reads hactive hleft
  refine ⟨i, hi, c, d, ?_⟩
  rw [exec_cbSnap_running hs, e]
  rfl

/-- Settles O8: the open choice is of any member of the channels left. -/
theorem snapReadOrderIsOpen : Obligations.SnapReadOrderIsOpen := by
  intro s i hs hactive hi
  obtain ⟨c, c', hpick⟩ := pick_allowed s (mem_snapLeft.mpr hi)
  refine ⟨c, c', ?_⟩
  rw [exec_cbSnap_running (s := { s with choices := c }) hs, snapStep_of_pick hpick hactive]
  rfl

/-- Settles O6. -/
theorem snapBeginStep : Obligations.SnapBeginStep := by
  intro s hs hidle
  rw [exec_cbSnap_running hs, snapStep_of_idle hidle]
  rfl

/-- Settles O9. -/
theorem snapReturnStep : Obligations.SnapReturnStep := by
  intro s hs hactive hnone
  rw [exec_cbSnap_running hs, snapStep_returns hactive hnone]
  rfl

/-! ## A quiet snapshot (44_counter_bank.md R172 (d)) -/

/-- A cell read takes its channel off those left. -/
theorem snapRead_snapLeft (s : State) (i : Channel) : (s.snapRead i).snapLeft = s.snapLeft.erase i := by
  have hnodup : s.snapLeft.Nodup := (List.nodup_finRange 8).filter _
  rw [hnodup.erase_eq_filter]
  simp only [State.snapLeft, List.filter_filter]
  refine List.filter_congr fun j _ => ?_
  by_cases hji : j = i
  · simp [hji]
  · simp [hji, Vector.getElem_set_ne _ _ (Fin.val_ne_of_ne (Ne.symm hji))]

theorem snapRead_snapLeft_length {s : State} {i : Channel} {n : Nat} (hi : s.snapTodo[i.val] = true)
    (h : s.snapLeft.length = n + 1) : (s.snapRead i).snapLeft.length = n := by
  rw [snapRead_snapLeft, List.length_erase_of_mem (mem_snapLeft.mpr hi), h, Nat.add_sub_cancel]

theorem snapBegin_snapLeft_length (s : State) : s.snapBegin.snapLeft.length = 8 := by
  simp [State.snapLeft]

/-- The channels a snapshot has read hold in `snap_val` what the bank holds. -/
def ReadsMatchBank (s : State) : Prop := ∀ i : Channel, s.snapTodo[i.val] = false → s.snapVal[i.val] = s.cb[i.val]

theorem snapRead_readsMatchBank {s : State} (h : ReadsMatchBank s) (i : Channel) : ReadsMatchBank (s.snapRead i) := by
  intro j hj
  by_cases hij : i = j
  · subst hij
    simp [State.cellRead]
  · have hne : i.val ≠ j.val := Fin.val_ne_of_ne hij
    simp only [snapRead_snapTodo, snapRead_snapVal, snapRead_cb, Vector.getElem_set_ne _ _ hne] at hj ⊢
    exact h j hj

/-- The snapshot ends in `t` with a result, the bank of `s`, and leaves the bank alone. -/
def ReturnsBank (s t : State) : Prop :=
  t.replies.pb = ⟨.ok, .cells s.cb⟩ :: s.replies.pb ∧ t.cb = s.cb ∧ t.snapActive = false ∧
    t.queue.pb = s.queue.pb.tail

/-- With every channel read, the return step returns the bank. -/
theorem snapReturn_returnsBank {s : State} (hmatch : ReadsMatchBank s)
    (hnone : ∀ i : Channel, s.snapTodo[i.val] = false) : ReturnsBank s s.snapReturn := by
  have hval : s.snapVal = s.cb := by
    ext j hj : 1
    exact hmatch ⟨j, hj⟩ (hnone ⟨j, hj⟩)
  simp [ReturnsBank, hval, Reply.okWith]

theorem execAll_cons {i : Instr} {s t : State} (h : exec i s = .next t) (rest : List Instr) :
    execAll (i :: rest) s = execAll rest t := by
  simp only [execAll, h]

/-- One cell-read step for each channel left and the return step, with nothing between, return the bank. -/
theorem execAll_cbSnap_returnsBank {s : State} {n : Nat} (hs : s.faulted .PB = false) (hactive : s.snapActive = true)
    (hmatch : ReadsMatchBank s) (hlength : s.snapLeft.length = n) :
    ∃ t, execAll (List.replicate (n + 1) .cbSnap) s = .next t ∧ ReturnsBank s t := by
  induction n generalizing s with
  | zero =>
    have hnone := snapLeft_eq_nil.mp (List.length_eq_zero_iff.mp hlength)
    refine ⟨s.snapReturn, ?_, snapReturn_returnsBank hmatch hnone⟩
    rw [List.replicate_succ, execAll_cons (exec_cbSnap_running hs), snapStep_returns hactive hnone]
    rfl
  | succ n ih =>
    obtain ⟨j, hj⟩ := List.exists_mem_of_length_eq_add_one hlength
    obtain ⟨i, hi, c, d, e⟩ := snapStep_reads hactive ⟨j, mem_snapLeft.mp hj⟩
    rw [List.replicate_succ, execAll_cons (exec_cbSnap_running hs), e]
    apply ih
    · exact hs
    · exact hactive
    · exact snapRead_readsMatchBank hmatch i
    · exact snapRead_snapLeft_length hi hlength

/-- Settles O10: the begin step leaves eight channels to read; then eight cell reads and the return step. -/
theorem quietSnapshotIsBank : Obligations.QuietSnapshotIsBank := by
  intro s hs hidle
  have hmatch : ReadsMatchBank s.snapBegin := fun i hread => by simp at hread
  obtain ⟨t, hrun, hbank⟩ := execAll_cbSnap_returnsBank (s := s.snapBegin) hs rfl hmatch
    (snapBegin_snapLeft_length s)
  refine ⟨t, ?_, hbank⟩
  rw [List.replicate_succ, execAll_cons (exec_cbSnap_running hs), snapStep_of_idle hidle]
  exact hrun

/-! ## The operations on one cell (44_counter_bank.md R161, R162, R166) -/

/-- Settles O1. -/
theorem cbIncAddsOne : Obligations.CbIncAddsOne := by
  intro ch s hs
  simp only [exec, execCbInc, atPort_running hs]
  rfl

/-- Settles O2. -/
theorem cbDecSubtractsOne : Obligations.CbDecSubtractsOne := by
  intro ch s hs
  simp only [exec, execCbDec, atPort_running hs]
  rfl

/-- Settles O5. -/
theorem cbRdReturnsCell : Obligations.CbRdReturnsCell := by
  intro ch s hs
  simp only [exec, execCbRd, atPort_running hs]
  rfl

/-! ## The net count of a cell (44_counter_bank.md R163) -/

/-- No instruction faults PA: `CB.INC` and `CB.DEC` only answer, and PB and PC record no fault there. -/
theorem exec_faulted_PA {i : Instr} {s t : State} (h : exec i s = .next t) : t.faulted .PA = s.faulted .PA := by
  rcases exec_cases h with
    ⟨_, rfl⟩ |
    ⟨_, ⟨_, _, rfl⟩ | ⟨_, _, rfl⟩ | ⟨_, _, rfl⟩ | ⟨_, rfl⟩ | ⟨_, _, hpush⟩ | ⟨_, _, r, rfl⟩⟩
  · rfl
  · rfl
  · rfl
  · rfl
  · obtain ⟨_, _, hpfault, _⟩ := snapStep_frame s
    simp only [State.faulted, hpfault]
  · obtain ⟨_, hpfault, _⟩ := push_frame hpush
    simp only [State.faulted, hpfault]
  · rcases respond_cases s .PC r with ⟨_, e⟩ | ⟨_, e⟩ <;> rw [e] <;> rfl

/-- Increments of a channel less its decrements, in a list of instructions. -/
def netCount (ch : Channel) (is : List Instr) : Int := (is.count (.cbInc ch) : Int) - (is.count (.cbDec ch) : Int)

theorem netCount_cons (ch : Channel) (i : Instr) (rest : List Instr) :
    netCount ch (i :: rest) = netCount ch [i] + netCount ch rest := by
  simp only [netCount, List.count_cons, List.count_nil]
  push_cast
  ring

/-- One instruction moves a cell by its net count, modulo 2^32. -/
theorem exec_cell {i : Instr} {s t : State} (hs : s.faulted .PA = false) (h : exec i s = .next t) (ch : Channel) :
    t.cb[ch.val] = s.cb[ch.val] + BitVec.ofInt 32 (netCount ch [i]) := by
  have other : i.port ≠ .PA → t.cb[ch.val] = s.cb[ch.val] + BitVec.ofInt 32 (netCount ch [i]) := by
    intro hport
    have hinc : i ≠ .cbInc ch := fun e => hport (by rw [e]; rfl)
    have hdec : i ≠ .cbDec ch := fun e => hport (by rw [e]; rfl)
    simp [onlyPortAWritesCells i s t hport h, netCount, hinc, hdec]
  cases i with
  | cbInc j =>
    obtain rfl : _ = t := Host.Outcome.next.inj ((cbIncAddsOne j s hs).symm.trans h)
    by_cases hj : j = ch
    · subst hj
      simp [netCount, BitVec.ofInt_add]
    · simp [netCount, hj, Vector.getElem_set_ne _ _ (Fin.val_ne_of_ne hj)]
  | cbDec j =>
    obtain rfl : _ = t := Host.Outcome.next.inj ((cbDecSubtractsOne j s hs).symm.trans h)
    by_cases hj : j = ch
    · subst hj
      simp [netCount, sub_eq_add_neg, BitVec.ofInt_add]
    · simp [netCount, hj, Vector.getElem_set_ne _ _ (Fin.val_ne_of_ne hj)]
  | _ => exact other (by simp [Instr.port])

/-- A list of instructions moves a cell by its net count, modulo 2^32, from any value. -/
theorem execAll_cell {is : List Instr} {s t : State} (hs : s.faulted .PA = false) (h : execAll is s = .next t)
    (ch : Channel) : t.cb[ch.val] = s.cb[ch.val] + BitVec.ofInt 32 (netCount ch is) := by
  induction is generalizing s with
  | nil =>
    obtain rfl : s = t := Host.Outcome.next.inj h
    simp [netCount]
  | cons i rest ih =>
    simp only [execAll] at h
    cases hi : exec i s with
    | next u =>
      rw [hi] at h
      rw [ih ((exec_faulted_PA hi).trans hs) h, exec_cell hs hi, netCount_cons ch i rest, BitVec.ofInt_add,
        BitVec.add_assoc]
    | fault r => simp [hi] at h
    | refused r => simp [hi] at h

/-- Settles O3. -/
theorem cellHoldsNetCount : Obligations.CellHoldsNetCount := by
  intro is s t ch hs hzero h
  rw [execAll_cell hs h ch, hzero, BitVec.zero_add]
  rfl

end Sys2Proof.Machine
end

section
/-! The family 60_exceptions.md: what an operation leaves alone at the other ports, a faulted port, an illegal
command word, and that a fault set stays until hardware reset. -/

namespace Sys2Proof.Machine

/-! ## The other ports (60_exceptions.md R190 (d), 20_memory.md R40) -/

/-- A result returned at one port. -/
theorem answer_samePortsBut (s : State) (p : Port) (r : Reply) : SamePortsBut p s (s.answer p r) :=
  fun _ hq => ⟨rfl, portGet_portSet_other _ _ hq, portGet_portSet_other _ _ hq⟩

/-- A fault raised at one port. -/
theorem raiseFault_samePortsBut (s : State) (p : Port) (st : Status) : SamePortsBut p s (s.raiseFault p st) :=
  fun _ hq => ⟨portGet_portSet_other _ _ hq, portGet_portSet_other _ _ hq, portGet_portSet_other _ _ hq⟩

/-- A reply, returned or raised, keeps to its port and to no assertion of hardware reset. -/
theorem respond_otherPorts (s : State) (p : Port) (r : Reply) :
    SamePortsBut p s (s.respond p r) ∧ (s.respond p r).resetsDue = s.resetsDue := by
  rcases respond_cases s p r with ⟨_, e⟩ | ⟨_, e⟩ <;> rw [e]
  · exact ⟨answer_samePortsBut s p r, rfl⟩
  · exact ⟨raiseFault_samePortsBut s p r.status, rfl⟩

theorem snapStep_otherPorts (s : State) :
    SamePortsBut .PB s s.snapStep ∧ s.snapStep.resetsDue = s.resetsDue := by
  obtain ⟨_, _, hpfault, hresets, hports⟩ := snapStep_frame s
  exact ⟨fun q hq => ⟨by rw [hpfault], hports q hq⟩, hresets⟩

theorem push_otherPorts {cfg : Cfg} {s t : State} {b : Byte} (h : s.push cfg b = .next t) :
    SamePortsBut .PC s t ∧ t.resetsDue = s.resetsDue := by
  obtain ⟨_, hpfault, hresets, _, hqueue, hreplies⟩ := push_frame h
  refine ⟨fun q hq => ⟨by rw [hpfault], ?_, ?_⟩, hresets⟩
  · rw [hqueue, portGet_portSet_other _ _ hq]
  · rw [hreplies, portGet_portSet_other _ _ hq]

/-- Settles O13: every instruction ends in a result or a fault at its own port, but for the steps of `CB.SNAP` that
return nothing. -/
theorem otherPortsUnaffected : Obligations.OtherPortsUnaffected := by
  intro i s t h
  rcases exec_cases h with
    ⟨_, rfl⟩ |
    ⟨_, ⟨_, rfl, rfl⟩ | ⟨_, rfl, rfl⟩ | ⟨_, rfl, rfl⟩ | ⟨rfl, rfl⟩ | ⟨_, rfl, hpush⟩ | ⟨hPC, _, r, rfl⟩⟩
  · exact ⟨answer_samePortsBut s _ _, rfl⟩
  · exact ⟨answer_samePortsBut (s.cellRMW _ _) .PA _, rfl⟩
  · exact ⟨answer_samePortsBut (s.cellRMW _ _) .PA _, rfl⟩
  · exact ⟨answer_samePortsBut s .PB _, rfl⟩
  · exact snapStep_otherPorts s
  · exact push_otherPorts hpush
  · rw [hPC]
    exact respond_otherPorts s .PC r

/-! ## A faulted port (60_exceptions.md R191) -/

theorem rejectRequest_faulted {s : State} {p : Port} (hf : s.faulted p = true) (e : DecodeError) :
    s.rejectRequest p e = s.answer p (Reply.only .errFaulted) := if_pos hf

/-- A faulted port answers `ERR_FAULTED` to its first request, be it an instruction or not. -/
theorem portStep_faulted {s : State} {p : Port} {r : Request} {rest : List Request}
    (hq : portGet s.queue p = r :: rest) (hf : s.faulted p = true) :
    portStep s p = .next (s.answer p (Reply.only .errFaulted)) := by
  cases hd : decode p r with
  | ok i =>
    obtain rfl := port_of_decode hd
    rw [portStep_instr hq hd, exec_faulted hf]
  | error e => rw [portStep_reject hq hd, rejectRequest_faulted hf]

/-- Settles O14. -/
theorem faultedPortPerformsNothing : Obligations.FaultedPortPerformsNothing := by
  intro s u p r rest hagent hq hf
  rw [step_of_nextAgent_port hagent, portStep_faulted hq hf, State.answer, hq]
  rfl

/-! ## An illegal command word (60_exceptions.md R189, R190) -/

theorem rejectRequest_illegalWord {s : State} {p : Port} (hrun : s.faulted p = false) :
    s.rejectRequest p .illegalWord = s.raiseFault p .errIllegal := by
  simp [State.rejectRequest, hrun]

/-- Settles O15: the word is refused by `raise Fault(p, ERR_ILLEGAL)`, whose code is `0x8`. -/
theorem illegalWordFaultsItsPort : Obligations.IllegalWordFaultsItsPort := by
  intro s u p r rest hagent hq hrun hd
  rw [step_of_nextAgent_port hagent, portStep_reject hq hd, rejectRequest_illegalWord hrun, State.raiseFault,
    State.answer, hq]
  rfl

/-! ## A fault set stays set (60_exceptions.md R192) -/

/-- Every fault that is set stays set, with its code. -/
def KeepsSetFaults (s t : State) : Prop :=
  ∀ p, s.faulted p = true → portGet t.pfault p = portGet s.pfault p

theorem keepsSetFaults_of_pfault {s t : State} (h : t.pfault = s.pfault) : KeepsSetFaults s t :=
  fun _ _ => by rw [h]

/-- A fault raised at a port that has none changes no fault that is set. -/
theorem raiseFault_keepsSetFaults {s : State} {p : Port} (hrun : s.faulted p = false) (st : Status) :
    KeepsSetFaults s (s.raiseFault p st) := by
  intro q hset
  have hother : q ≠ p := by
    rintro rfl
    exact absurd (hset.symm.trans hrun) (by decide)
  exact portGet_portSet_other _ _ hother

theorem respond_keepsSetFaults {s : State} {p : Port} (hrun : s.faulted p = false) (r : Reply) :
    KeepsSetFaults s (s.respond p r) := by
  rcases respond_cases s p r with ⟨_, e⟩ | ⟨_, e⟩ <;> rw [e]
  · exact keepsSetFaults_of_pfault rfl
  · exact raiseFault_keepsSetFaults hrun r.status

/-- An instruction raises a fault only where its port has none: at a faulted port it performs nothing
(60_exceptions.md R191). -/
theorem exec_keepsSetFaults {i : Instr} {s t : State} (h : exec i s = .next t) : KeepsSetFaults s t := by
  rcases exec_cases h with
    ⟨_, rfl⟩ |
    ⟨hrun, ⟨_, _, rfl⟩ | ⟨_, _, rfl⟩ | ⟨_, _, rfl⟩ | ⟨_, rfl⟩ | ⟨_, _, hpush⟩ | ⟨hPC, _, r, rfl⟩⟩
  · exact keepsSetFaults_of_pfault rfl
  · exact keepsSetFaults_of_pfault rfl
  · exact keepsSetFaults_of_pfault rfl
  · exact keepsSetFaults_of_pfault rfl
  · obtain ⟨_, _, hpfault, _⟩ := snapStep_frame s
    exact keepsSetFaults_of_pfault hpfault
  · obtain ⟨_, hpfault, _⟩ := push_frame hpush
    exact keepsSetFaults_of_pfault hpfault
  · exact respond_keepsSetFaults (hPC ▸ hrun) r

theorem rejectRequest_keepsSetFaults (s : State) (p : Port) (e : DecodeError) :
    KeepsSetFaults s (s.rejectRequest p e) := by
  rcases rejectRequest_cases s p e with ⟨_, heq⟩ | ⟨hrun, heq⟩ <;> rw [heq]
  · exact keepsSetFaults_of_pfault rfl
  · exact raiseFault_keepsSetFaults hrun _

/-- Settles O16: waiting, an instruction and a refused request keep every fault that is set; what is left is
hardware reset. -/
theorem onlyResetClearsFault : Obligations.OnlyResetClearsFault := by
  intro s t p hstep hset
  rcases step_cases s with
    ⟨_, e⟩ | ⟨_, u, _, _, i, hagent, _, _, e⟩ | ⟨q, u, _, _, err, hagent, _, _, e⟩ | ⟨u, hagent, _⟩
  · obtain rfl := Host.Outcome.next.inj (e.symm.trans hstep)
    exact .inl rfl
  · obtain ⟨_, c, d, rfl⟩ := nextAgent_frame hagent
    exact .inl (exec_keepsSetFaults (e.symm.trans hstep) p hset)
  · obtain ⟨_, c, d, rfl⟩ := nextAgent_frame hagent
    obtain rfl := Host.Outcome.next.inj (e.symm.trans hstep)
    exact .inl (rejectRequest_keepsSetFaults _ q err p hset)
  · exact .inr ⟨u, hagent⟩

end Sys2Proof.Machine
end

section
/-! The family 70_reset_and_hazards.md: the step of hardware reset. -/

namespace Sys2Proof.Machine

/-- Where hardware reset is chosen, the step is the assertion's (70_reset_and_hazards.md R210, R215). -/
theorem step_of_nextAgent_reset {s u : State} (h : s.nextAgent = some (.reset, u)) :
    step s = .next u.takeReset := by
  simp [step, h]

/-- Of the lists, hardware reset takes only the `CB.SNAP` in flight, the first of PB's (log 8). -/
theorem takeReset_queue (s : State) :
    s.takeReset.queue =
      { s.queue with pb := if s.snapActive then s.queue.pb.tail else s.queue.pb } := by
  unfold State.takeReset
  rw [hardwareReset_queue]
  split
  · rfl
  · rfl

/-- Settles O57: the spec's fields take the values of `resetValues`; of the cores' fields the replies stay, and the
lists but for the snapshot in flight. -/
theorem hardwareResetStep : Obligations.HardwareResetStep := by
  intro s u hagent
  obtain ⟨hcb, hactive, htodo, hhunt, hfill, hcount, hfault⟩ := resetValues
  refine ⟨u.takeReset, step_of_nextAgent_reset hagent,
    hcb, hactive, htodo, hhunt, hfill, hcount, hfault, rfl, ?_, ?_, ?_⟩
  · rw [takeReset_queue]
  · rw [takeReset_queue]
  · rw [takeReset_queue]

end Sys2Proof.Machine
end
